-- ==== Sys2Proof/Word.lean ====
section
/-!
DEFINITION. The word types of spec/00_scope.md R13: a word is 32 bits, a byte is 8 bits, both unsigned.
Addition modulo 2^32 (40_word_utilities R94) is `+` on `Word`; XOR, AND, OR and complement (R96) are `^^^`, `&&&`,
`|||` and `~~~`.
-/

namespace Sys2Proof

/-- A byte, 0..255 (00_scope R13). -/
abbrev Byte := BitVec 8

/-- A word, 0..2^32-1 (00_scope R13). -/
abbrev Word := BitVec 32

/-- A port index, 0x00..0xFF (20_memory R50). -/
abbrev PortIndex := BitVec 8

end Sys2Proof
end

