-- ==== Sys2Proof/Syntax.lean ====
section
/-!
DEFINITION. The commands of the block, one constructor per row of spec/opcode_table.json (30_encoding R72).
The operands are implicit (`DIN`, `K`, `T`, `R`, `DOUT`) but for the `LEN` field, "an unsigned number of bytes"
(30_encoding R73), held as a natural number that `Instr.wellFormed` bounds by its 8 bits.
-/

namespace Sys2Proof

inductive Instr where
  /-- `NOP`, 45_key_iv_load R132. -/
  | nop
  /-- `SETKEY len, ref`, 45_key_iv_load R126. -/
  | setkeyRef (len : Nat)
  /-- `SETKEY len, table`, 45_key_iv_load R126. -/
  | setkeyTable (len : Nat)
  /-- `SETKEY len, fast`, 45_key_iv_load R126. -/
  | setkeyFast (len : Nat)
  /-- `SETIV len`, 45_key_iv_load R129. -/
  | setiv (len : Nat)
  /-- `ROUND`, 46_round_batch R141. -/
  | round
  /-- `BATCH`, 46_round_batch R143. -/
  | batch
  /-- `ZEROIZE`, 45_key_iv_load R131. -/
  | zeroize
  deriving DecidableEq, Repr

/-- The mnemonic of the instruction's row of spec/opcode_table.json, letter for letter. -/
def Instr.mnemonic : Instr → String
  | .nop => "NOP"
  | .setkeyRef _ => "SETKEY.REF"
  | .setkeyTable _ => "SETKEY.TABLE"
  | .setkeyFast _ => "SETKEY.FAST"
  | .setiv _ => "SETIV"
  | .round => "ROUND"
  | .batch => "BATCH"
  | .zeroize => "ZEROIZE"

end Sys2Proof
end

