-- ==== Sys2Proof/WellFormed.lean ====
section
/-!
DEFINITION. Which terms of `Instr` are instructions: the `LEN` field has 8 bits, 0..255 (30_encoding R71). A `LEN`
outside the legal key or IV lengths "is a well-formed command that fails" (30_encoding R73), so legality is no part
of this check.
-/

namespace Sys2Proof

/-- The value fits the 8 bits of the `LEN` field (30_encoding R71). -/
def lenFits (len : Nat) : Bool := len < 256

/-- The instruction can be written as a command word. -/
def Instr.wellFormed : Instr → Bool
  | .nop => true
  | .setkeyRef len => lenFits len
  | .setkeyTable len => lenFits len
  | .setkeyFast len => lenFits len
  | .setiv len => lenFits len
  | .round => true
  | .batch => true
  | .zeroize => true

end Sys2Proof
end

