-- ==== Sys2Proof/Decode.lean ====
section
/-!
DEFINITION. The command word and its decoder (spec/30_encoding.md R70 to R76), and after it the encoder and the
opcode table of R72 as rows of a match and a mask. The decoder is total on all 2^32 words.
-/

namespace Sys2Proof

/-- `v[hi:lo]`, the field of bits `hi` down to `lo` as an unsigned integer (00_scope R13). -/
def bits (hi lo : Nat) (v : Word) : Nat := v.toNat / 2 ^ lo % 2 ^ (hi - lo + 1)

/-- Field `OPC`, bits 31:24 (30_encoding R71). -/
def fieldOpc (v : Word) : Nat := bits 31 24 v

/-- Field `LEN`, bits 23:16 (30_encoding R71). -/
def fieldLen (v : Word) : Nat := bits 23 16 v

/-- Field `MODE`, bits 15:8 (30_encoding R71). -/
def fieldMode (v : Word) : Nat := bits 15 8 v

/-- Field `ZERO`, bits 7:0 (30_encoding R71). -/
def fieldZero (v : Word) : Nat := bits 7 0 v

/-- Why a word is an illegal encoding: the five conditions (a) to (e) of 30_encoding R75. Each raises `ERR_OPCODE`. -/
inductive DecodeReject where
  /-- (a) `ZERO != 0`. -/
  | zeroFieldNonzero
  /-- (b) `OPC` in 0x06..0xFF. -/
  | reservedOpcode
  /-- (c) `OPC` is 0x00, 0x03, 0x04 or 0x05, and `LEN != 0` or `MODE != 0`. -/
  | operandFieldNonzero
  /-- (d) `OPC = 0x02` and `MODE != 0`. -/
  | setivModeNonzero
  /-- (e) `OPC = 0x01` and `MODE >= 3`. -/
  | setkeyModeReserved
  deriving DecidableEq, Repr

/-- The check of 30_encoding R75 (c), for the commands without operand fields. -/
def decodeBare (i : Instr) (v : Word) : Except DecodeReject Instr :=
  if fieldLen v ≠ 0 ∨ fieldMode v ≠ 0 then .error .operandFieldNonzero else .ok i

/-- The decoder of `Execute` (30_encoding R76), its checks in the order R76 gives them. -/
def decode (v : Word) : Except DecodeReject Instr :=
  if fieldZero v ≠ 0 then .error .zeroFieldNonzero
  else match fieldOpc v with
    | 0x00 => decodeBare .nop v
    | 0x01 =>
      match fieldMode v with
      | 0 => .ok (.setkeyRef (fieldLen v))
      | 1 => .ok (.setkeyTable (fieldLen v))
      | 2 => .ok (.setkeyFast (fieldLen v))
      | _ => .error .setkeyModeReserved
    | 0x02 => if fieldMode v ≠ 0 then .error .setivModeNonzero else .ok (.setiv (fieldLen v))
    | 0x03 => decodeBare .round v
    | 0x04 => decodeBare .batch v
    | 0x05 => decodeBare .zeroize v
    | _ => .error .reservedOpcode

/-- The word with the given `OPC`, `LEN` and `MODE` fields and `ZERO = 0` (30_encoding R70). -/
def packCommand (opc len mode : Nat) : Word := BitVec.ofNat 32 (opc * 2 ^ 24 + len * 2 ^ 16 + mode * 2 ^ 8)

/-- The word patterns of 30_encoding R72. -/
def encode : Instr → Word
  | .nop => packCommand 0x00 0 0
  | .setkeyRef len => packCommand 0x01 len 0
  | .setkeyTable len => packCommand 0x01 len 1
  | .setkeyFast len => packCommand 0x01 len 2
  | .setiv len => packCommand 0x02 len 0
  | .round => packCommand 0x03 0 0
  | .batch => packCommand 0x04 0 0
  | .zeroize => packCommand 0x05 0 0

/-- One row of the opcode table: "a word `v` is that command exactly when `v & mask == match`" (30_encoding R72). -/
structure OpcodeRow where
  mnemonic : String
  matchWord : Word
  mask : Word
  deriving DecidableEq, Repr

/-- `v & mask == match` (30_encoding R72). -/
def OpcodeRow.accepts (row : OpcodeRow) (v : Word) : Bool := v &&& row.mask == row.matchWord

/-- The opcode table of 30_encoding R72, `SETKEY` as three rows with its `MODE` field fixed. -/
def opcodeTable : List OpcodeRow :=
  [ { mnemonic := "NOP", matchWord := 0x00000000, mask := 0xFFFFFFFF },
    { mnemonic := "SETKEY.REF", matchWord := 0x01000000, mask := 0xFF00FFFF },
    { mnemonic := "SETKEY.TABLE", matchWord := 0x01000100, mask := 0xFF00FFFF },
    { mnemonic := "SETKEY.FAST", matchWord := 0x01000200, mask := 0xFF00FFFF },
    { mnemonic := "SETIV", matchWord := 0x02000000, mask := 0xFF00FFFF },
    { mnemonic := "ROUND", matchWord := 0x03000000, mask := 0xFFFFFFFF },
    { mnemonic := "BATCH", matchWord := 0x04000000, mask := 0xFFFFFFFF },
    { mnemonic := "ZEROIZE", matchWord := 0x05000000, mask := 0xFFFFFFFF } ]

/-- The instruction the decoder reads from an instruction whose bits are `w`, of which the table gives `nbits`; a
command has one length, 32 bits (30_encoding R70), so a longer one is none. -/
def decodeTableWord (nbits w : Nat) : Option Instr :=
  if nbits ≤ 32 then (decode (BitVec.ofNat 32 (w % 2 ^ nbits))).toOption else none

end Sys2Proof
end

