-- ==== Sys2Proof/Config.lean ====
section
/-!
DEFINITION. The implementation parameters of spec/00_scope.md R7. None has a value in the spec, so each is a constant
without a body: a statement about the model holds whatever the constant is (assumption log entries 2 and 10).
-/

namespace Sys2Proof

/-- The two values the least legal IV length may have (00_scope R7, 90_conflicts C2). -/
inductive IvMin where
  | zero
  | four
  deriving DecidableEq, Repr, Inhabited

/-- The least legal IV length in bytes. -/
def IvMin.bytes : IvMin → Nat
  | .zero => 0
  | .four => 4

/-- The six commands, as the index of `LAT(op)` (00_scope R7). -/
inductive CommandName where
  | nop
  | setkey
  | setiv
  | round
  | batch
  | zeroize
  deriving DecidableEq, Repr

/-- The parameters the functions of the block read (00_scope R7). `sbox` carries its contract, "a permutation
(bijection) of 0..255", in its type; `qbox` and `multab` have none beyond their types (R8). -/
structure Params where
  sbox : Equiv.Perm Byte
  qbox : Byte → Word
  multab : Byte → Word
  ivMin : IvMin

namespace Config

/-- `SBOX`: contents not in the spec (93_implementation_defined U1). -/
opaque SBOX : Equiv.Perm Byte

/-- `QBOX`: contents not in the spec (93_implementation_defined U2). -/
opaque QBOX : Byte → Word

/-- `MULTAB`: contents not in the spec, linearity not assumed (93_implementation_defined U3). -/
opaque MULTAB : Byte → Word

/-- `IV_MIN`: 0 or 4 (93_implementation_defined U9). -/
opaque IV_MIN : IvMin

/-- `LAT(op)`: the unknown latency of a command; "no rule of this spec depends on it" (00_scope R7,
70_reset_and_hazards R212), and no definition of the model reads it. -/
opaque LAT : CommandName → Nat

/-- The parameters of the block. -/
def params : Params where
  sbox := SBOX
  qbox := QBOX
  multab := MULTAB
  ivMin := IV_MIN

end Config

end Sys2Proof
end

