-- ==== Sys2Proof/Machine/WordUtil.lean ====
section
/-!
DEFINITION. The word utilities of spec/40_word_utilities.md: pure, total, no flag and no error.
-/

namespace Sys2Proof.Machine

/-- `BYTE(w, p)`: the byte at position `p`, position 0 the most significant (R90). -/
def byteAt (w : Word) (p : Fin 4) : Byte := ((w >>> (24 - 8 * p.val)) &&& 0xFF).setWidth 8

/-- `LANE(p)`: the mask of byte position `p` (R97). -/
def lane (p : Fin 4) : Word := (0xFF : Word) <<< (24 - 8 * p.val)

/-- `PUT(b, p)`: a byte "shifted into its own byte lane" (R97). -/
def put (b : Byte) (p : Fin 4) : Word := b.setWidth 32 <<< (24 - 8 * p.val)

/-- `B2W(b0, b1, b2, b3)`: the big-endian word of four bytes (R91). -/
def b2w (b0 b1 b2 b3 : Byte) : Word :=
  (b0.setWidth 32 <<< 24) ||| (b1.setWidth 32 <<< 16) ||| (b2.setWidth 32 <<< 8) ||| b3.setWidth 32

/-- `W2B(w)`: the four bytes of a word, most significant first (R92). -/
def w2b (w : Word) : List Byte := [byteAt w 0, byteAt w 1, byteAt w 2, byteAt w 3]

/-- `ROTL(w, n)`: the left rotation (R93), taken at `n mod 32` outside 0..31, where no rule calls it. -/
def rotl (w : Word) (n : Nat) : Word :=
  if n % 32 = 0 then w else (w <<< (n % 32)) ||| (w >>> (32 - n % 32))

/-- `SHL8(w)`: the top byte lost, the low byte 0 (R95). -/
def shl8 (w : Word) : Word := w <<< 8

/-- `TOP(w)`: the top byte, the index into `MULTAB` (R95). -/
def top (w : Word) : Byte := byteAt w 0

/-- The whole words of a byte string, packed big-endian (20_memory R56); bytes after the last whole word are not
packed (R57). -/
def packWords : List Byte → List Word
  | b0 :: b1 :: b2 :: b3 :: rest => b2w b0 b1 b2 b3 :: packWords rest
  | _ => []

/-- The bytes of a word sequence, "big-endian per word" (20_memory R56, 46_round_batch R140 step 9). -/
def serialize (ws : List Word) : List Byte := ws.flatMap w2b

/-- The first `n` entries of a sequence as an array of `n` words, 0 beyond its end (10_state R23: the upper words of
`K` are 0). -/
def toVector (n : Nat) (ws : List Word) : Vector Word n := Vector.ofFn fun i => ws.getD i.val 0

end Sys2Proof.Machine
end

