-- ==== Sys2Proof/Machine/FixedS.lean ====
section
/-!
DEFINITION. The fixed mixing function FixedS and its inverse (spec/41_fixed_s.md R100, R101).
-/

namespace Sys2Proof.Machine

/-- One pass of FixedS at byte position `p`: its own byte becomes `b = SBOX[...]`, the three others are XORed with
those of the rotated `QBOX[b]` (R100). -/
def fixedSPass (c : Params) (p : Fin 4) (w : Word) : Word :=
  let b := c.sbox (byteAt w p)
  ((w ^^^ rotl (c.qbox b) (8 * p.val)) &&& ~~~ lane p) ||| put b p

/-- `FixedS(w)`: the four passes in the order 0, 1, 2, 3, each on the word the pass before left (R100). -/
def fixedS (c : Params) (w : Word) : Word :=
  fixedSPass c 3 (fixedSPass c 2 (fixedSPass c 1 (fixedSPass c 0 w)))

/-- The inverse of one pass (R101). -/
def fixedSUnpass (c : Params) (p : Fin 4) (w : Word) : Word :=
  let b := byteAt w p
  ((w ^^^ rotl (c.qbox b) (8 * p.val)) &&& ~~~ lane p) ||| put (c.sbox.symm b) p

/-- The inverse of FixedS: the passes undone in the order 3, 2, 1, 0 (R101). No command computes it. -/
def fixedSInverse (c : Params) (w : Word) : Word :=
  fixedSUnpass c 0 (fixedSUnpass c 1 (fixedSUnpass c 2 (fixedSUnpass c 3 w)))

end Sys2Proof.Machine
end

