-- ==== Sys2Proof/Machine/Operands.lean ====
section
/-!
DEFINITION. The one explicit operand of a command, its `LEN` field: "an unsigned number of bytes, not scaled and not
extended", and which of its values are legal (spec/30_encoding.md R73; 60_exceptions R180 to R182).
-/

namespace Sys2Proof.Machine

/-- The number of whole words of a length in bytes, `len / 4` (45_key_iv_load R126, R129). -/
def wordCount (len : Nat) : Nat := len / 4

/-- The legal key lengths: "`4 <= len(key) <= 32`, `len(key) % 4 == 0`" (30_encoding R73, 60_exceptions R180). -/
def keyLenLegal (len : Nat) : Bool := 4 ≤ len && len ≤ 32 && len % 4 == 0

/-- The IV lengths that `ERR_IVLEN` does not refuse: a multiple of 4, at least `IV_MIN` (60_exceptions R181). -/
def ivLenLegal (c : Params) (len : Nat) : Bool := len % 4 == 0 && c.ivMin.bytes ≤ len

/-- The combined bound: `len + 4*KW <= 48` (60_exceptions R182). -/
def kivLenLegal (kw len : Nat) : Bool := len + 4 * kw ≤ 48

end Sys2Proof.Machine
end

