-- ==== Sys2Proof/Machine/KeyedS.lean ====
section
/-!
DEFINITION. The keyed substitution KeyedS in its direct form, the keyed tables and the table look-up form
(spec/42_keyed_s.md R105 to R110). The key schedule is the list `K[0..KW-1]`.
-/

namespace Sys2Proof.Machine

/-- The rotation operand: "No other value of `r` occurs" than 0, 8, 16, 24 (R105, R106). -/
inductive Rotation where
  | r0
  | r8
  | r16
  | r24
  deriving DecidableEq, Repr

/-- The rotation in bits. -/
def Rotation.amount : Rotation → Nat
  | .r0 => 0
  | .r8 => 8
  | .r16 => 16
  | .r24 => 24

/-- The byte `b[p]` and the accumulator `ws[p]` of one byte position (R105). -/
structure LaneAcc where
  b : Byte
  ws : Word
  deriving DecidableEq, Repr

/-- What key word `k = K[i]` does at byte position `p` (R105). -/
def laneStep (c : Params) (i : Nat) (p : Fin 4) (k : Word) (a : LaneAcc) : LaneAcc :=
  let b := c.sbox (byteAt k p ^^^ a.b)
  { b := b, ws := a.ws ^^^ rotl (c.qbox b) (i + 8 * p.val) }

/-- Term `p` of the result: the accumulator masked to the other three bytes, with `b[p]` in its own lane (R105). -/
def laneTerm (p : Fin 4) (a : LaneAcc) : Word := (a.ws &&& ~~~ lane p) ||| put a.b p

/-- The loop of the direct form over the key words in index order, all four positions in each pass (R105). -/
def keyedSLoop (c : Params) : Nat → List Word → Vector LaneAcc 4 → Vector LaneAcc 4
  | _, [], v => v
  | i, k :: ks, v => keyedSLoop c (i + 1) ks (Vector.ofFn fun p => laneStep c i p k v[p])

/-- `KeyedS(K, KW, w, r)`, the direct form (R105). -/
def keyedS (c : Params) (ks : List Word) (w : Word) (r : Rotation) : Word :=
  let w' := rotl w r.amount
  let v := keyedSLoop c 0 ks (Vector.ofFn fun p => { b := byteAt w' p, ws := 0 })
  laneTerm 0 v[0] ^^^ laneTerm 1 v[1] ^^^ laneTerm 2 v[2] ^^^ laneTerm 3 v[3]

/-- The loop of the table build: one byte position alone, from key word `i` on (R107). -/
def tableLoop (c : Params) (p : Fin 4) : Nat → List Word → LaneAcc → LaneAcc
  | _, [], a => a
  | i, k :: ks, a => tableLoop c p (i + 1) ks (laneStep c i p k a)

/-- `T[p][x]`: "running the loop with a single-byte seed", the final mask-and-place step included (R107). -/
def tableEntry (c : Params) (ks : List Word) (p : Fin 4) (x : Byte) : Word :=
  laneTerm p (tableLoop c p 0 ks { b := x, ws := 0 })

/-- `BuildTables(K, KW)`, all 1024 words (R107). -/
def buildTables (c : Params) (ks : List Word) : Vector (Vector Word 256) 4 :=
  Vector.ofFn fun p => Vector.ofFn fun x => tableEntry c ks p (BitVec.ofFin x)

/-- The entry `T[p][x]` of four tables. -/
def tableAt (t : Vector (Vector Word 256) 4) (p : Fin 4) (x : Byte) : Word := (t.get p).get x.toFin

/-- `KeyedS_T(T, w, r)`, the table look-up form (R108). -/
def keyedST (t : Vector (Vector Word 256) 4) (w : Word) (r : Rotation) : Word :=
  let w' := rotl w r.amount
  tableAt t 0 (byteAt w' 0) ^^^ tableAt t 1 (byteAt w' 1) ^^^ tableAt t 2 (byteAt w' 2) ^^^ tableAt t 3 (byteAt w' 3)

end Sys2Proof.Machine
end

