-- ==== Sys2Proof/Machine/Pht.lean ====
section
/-!
DEFINITION. The pseudo-Hadamard transform on 5 words and on n words, and the inverse of the latter
(spec/44_pht.md R120 to R122). `+` is addition modulo 2^32 (40_word_utilities R94).
-/

namespace Sys2Proof.Machine

/-- Five words in order (a, b, c, d, e). -/
structure Five where
  a : Word
  b : Word
  c : Word
  d : Word
  e : Word
  deriving DecidableEq, Repr

/-- The five words in order. -/
def Five.words (v : Five) : List Word := [v.a, v.b, v.c, v.d, v.e]

/-- `PHT5`: the new `e` is the sum of all five, and the new `e` is added to the four others (R120). -/
def pht5 (v : Five) : Five :=
  let e := v.e + v.a + v.b + v.c + v.d
  { a := v.a + e, b := v.b + e, c := v.c + e, d := v.d + e, e := e }

/-- The sum of a sequence of words, from 0, in index order (R121). -/
def sumWords (ws : List Word) : Word := ws.foldl (· + ·) 0

/-- `PHTn`: all but the last are summed into the last, then the new last is added to all others (R121). The spec has
`n >= 1`; the empty sequence is left as it is. -/
def phtN (ws : List Word) : List Word :=
  match ws.getLast? with
  | none => []
  | some w =>
    let last := w + sumWords ws.dropLast
    ws.dropLast.map (· + last) ++ [last]

/-- The inverse of `PHTn` (R122). The block never computes it. -/
def phtNInverse (ws : List Word) : List Word :=
  match ws.getLast? with
  | none => []
  | some last =>
    let front := ws.dropLast.map (· - last)
    front ++ [last - sumWords front]

end Sys2Proof.Machine
end

