-- ==== Sys2Proof/Machine/State.lean ====
section
/-!
DEFINITION. The state: the whole architectural record of one block (spec/10_state.md R20) and, beside it, the host's
side of the port space, which is the model's own (assumption log entry 1). Plain data throughout.
-/

namespace Sys2Proof.Machine

/-- `PHASE` (10_state R27). -/
inductive Phase where
  | empty
  | keyed
  | running
  deriving DecidableEq, Repr

/-- `MODE`, the implementation variant (10_state R28). -/
inductive Mode where
  | ref
  | table
  | fast
  deriving DecidableEq, Repr

/-- The values `ERR` ever holds: the list of 60_exceptions R176 (8..15 are "never produced by the block", log entry 11). -/
inductive ErrCode where
  | none
  | opcode
  | state
  | mode
  | keyLen
  | ivLen
  | kivLen
  | addr
  deriving DecidableEq, Repr

/-- "The whole architectural state of one block instance" (10_state R20), one field per row of its table. -/
structure Block where
  /-- `R[0..16]`, the feedback register in logical order (R21). -/
  r : Vector Word 17
  /-- `K[0..7]`, the key schedule (R23). -/
  k : Vector Word 8
  /-- `KW`, the number of key-schedule words, 0..8 (R23). -/
  kw : Fin 9
  /-- `T[0..3][0..255]`, the keyed tables (R24). -/
  t : Vector (Vector Word 256) 4
  /-- `DIN[0..11]`, the input buffer (R25). -/
  din : Vector Word 12
  /-- `DOUT[0..84]`, the output buffer (R26). -/
  dout : Vector Word 85
  /-- `OCNT`, how many words of `DOUT` the last generation command wrote (R26). -/
  ocnt : Fin 86
  /-- `PHASE` (R27). -/
  phase : Phase
  /-- `MODE` (R28). -/
  mode : Mode
  /-- `ERR`, the result code of the most recent command or faulting port access (R29). -/
  err : ErrCode
  /-- `FAULT`, set by every failure, cleared by `ZEROIZE` and reset only (R29). -/
  fault : Bool
  deriving DecidableEq, Repr

/-- One thing the host does to the block: a port access (20_memory R53, R54) or the reset event
(70_reset_and_hazards R200). -/
inductive HostEvent where
  | read (idx : PortIndex)
  | write (idx : PortIndex) (v : Word)
  | reset
  deriving DecidableEq, Repr

/-- The block and the host's side of its port space. `pending` and `replies` are the MODEL's own (log entry 1):
the accesses the host will issue, in the one total order of 20_memory R58, and the values its reads have returned,
oldest first (70_reset_and_hazards R214). -/
structure State where
  block : Block
  pending : List HostEvent
  replies : List Word
  deriving DecidableEq, Repr

/-- Why a step stops. No instruction and no port access of the block raises one (70_reset_and_hazards R214: "it never
stops by itself"). -/
inductive Fault where
  /-- Raised by the HOST LAYER's `nextByte` only (47_host_stream R158), when the generation command it issued left no
  keystream to draw, so that R158's loop would never end; no transform that `construct` makes reaches it. Safe: the
  model stops where the spec's loop does not end (log entry 6). -/
  | keystreamStarved
  deriving DecidableEq, Repr

/-- Why an instruction has no meaning in the model. -/
inductive Refusal where
  /-- Raised by an arm of `exec` whose instruction has no meaning yet; no arm does. Safe. -/
  | notModelled (mnemonic : String)
  deriving DecidableEq, Repr

/-- The reset values of 10_state R37. -/
def Block.reset : Block where
  r := Vector.replicate 17 0
  k := Vector.replicate 8 0
  kw := 0
  t := Vector.replicate 4 (Vector.replicate 256 0)
  din := Vector.replicate 12 0
  dout := Vector.replicate 85 0
  ocnt := 0
  phase := .empty
  mode := .ref
  err := .none
  fault := false

/-- The machine right after reset: the block idle in phase `EMPTY` (70_reset_and_hazards R201), no host access
placed (log entry 1). -/
def State.reset : State where
  block := Block.reset
  pending := []
  replies := []

end Sys2Proof.Machine
end

