-- ==== Sys2Proof/Machine/Ops.lean ====
section
/-!
DEFINITION. The shared operations over the block's state: failing and succeeding (spec/60_exceptions.md R185, R186),
the buffers (10_state R25, R26), the key schedule words (R23) and the KeyedS of the current mode (42_keyed_s R110).
-/

namespace Sys2Proof.Machine

/-- The state with its block changed by `f`; the host's side of the port space is left alone. -/
def mapBlock (f : Block → Block) (s : State) : State := { s with block := f s.block }

/-- One outcome followed by what happens in the state it answers. -/
def andThen {σ τ : Type} (o : Host.Outcome σ Fault Refusal) (f : σ → Host.Outcome τ Fault Refusal) :
    Host.Outcome τ Fault Refusal :=
  match o with
  | .next s => f s
  | .fault r => .fault r
  | .refused r => .refused r

/-- `raise Err(code)`, the block's analogue of taking an exception: "`ERR <- code`; `FAULT <- 1`; nothing else
changes" (60_exceptions R185). There is no handler to go to and no return from it (R175, R186). -/
def raiseErr (code : ErrCode) (b : Block) : Block := { b with err := code, fault := true }

/-- What ends every successful command but `ZEROIZE`: "`ERR <- 0`", `FAULT` unchanged (30_encoding R76,
60_exceptions R186). -/
def succeed (b : Block) : Block := { b with err := .none }

/-- The key schedule `K[0..KW-1]` (10_state R23). -/
def keyWords (b : Block) : List Word := b.k.toList.take b.kw.val

/-- The first `n` words of the input buffer, `DIN[0..n-1]` (30_encoding R73). -/
def dinWords (n : Nat) (b : Block) : List Word := b.din.toList.take n

/-- `DIN[i] <- v` (20_memory R54). -/
def writeDin (i : Fin 12) (v : Word) (b : Block) : Block := { b with din := b.din.set i v }

/-- `DOUT[i]` (20_memory R53). -/
def readDout (i : Fin 85) (b : Block) : Word := b.dout[i]

/-- `DIN[0..11] <- 0`, after a successful `SETKEY` or `SETIV` (10_state R25). -/
def clearDin (b : Block) : Block := { b with din := Vector.replicate 12 0 }

/-- The words of a round in `DOUT[0..4]`, `OCNT <- 5`, `DOUT[5..84]` unchanged (46_round_batch R141). -/
def storeRound (v : Five) (b : Block) : Block :=
  { b with
    dout := ((((b.dout.set 0 v.a).set 1 v.b).set 2 v.c).set 3 v.d).set 4 v.e
    ocnt := 5 }

/-- The words of a batch in `DOUT[0..84]`, `OCNT <- 85` (46_round_batch R143). -/
def storeBatch (o : List Word) (b : Block) : Block := { b with dout := toVector 85 o, ocnt := 85 }

/-- `S(w, r)`, the KeyedS of the current mode: the direct form on `K` in `REF`, the table form on `T` in `TABLE` and
`FAST` (42_keyed_s R110). -/
def keyedOf (c : Params) (b : Block) : Word → Rotation → Word :=
  match b.mode with
  | .ref => keyedS c (keyWords b)
  | .table => keyedST b.t
  | .fast => keyedST b.t

end Sys2Proof.Machine
end

