-- ==== Sys2Proof/Machine/KeyIvLoad.lean ====
section
/-!
DEFINITION. The key schedule, the register initialisation, and the commands SETKEY, SETIV, ZEROIZE and NOP
(spec/45_key_iv_load.md R125 to R132). A command checks phase, then length, in the order of 60_exceptions R184; its
encoding was checked by the decoder before it.
-/

namespace Sys2Proof.Machine

/-- `KeySchedule(D, n)`: FixedS of each key word, then one PHT pass over the whole array (R125). -/
def keySchedule (c : Params) (d : List Word) : List Word := phtN (d.map (fixedS c))

/-- The length word `0x01020300 | (KW << 4) | IW` (R128 (c)). -/
def lengthWord (kw iw : Nat) : Word := 0x01020300 ||| (BitVec.ofNat 32 kw <<< 4) ||| BitVec.ofNat 32 iw

/-- `R[i] <- S(R[i - n0] + R[i - 1], 0)` for `count` further words, in increasing `i` (R128 (d)). -/
def ivFill (s : Word → Rotation → Word) (n0 : Nat) : Nat → List Word → List Word
  | 0, r => r
  | count + 1, r => ivFill s n0 count (r ++ [s (r.getD (r.length - n0) 0 + r.getD (r.length - 1) 0) .r0])

/-- The register words placed before the fill: IV words through FixedS, key schedule words, length word
(R128 (a), (b), (c)). Lines (a) to (d) are general knowledge the spec adopts (log entry 3). -/
def ivPlaced (c : Params) (k v : List Word) : List Word :=
  v.map (fixedS c) ++ k ++ [lengthWord k.length v.length]

/-- The register words before the final mix (R128 (a) to (d)). -/
def ivUnmixed (c : Params) (s : Word → Rotation → Word) (k v : List Word) : List Word :=
  ivFill s (ivPlaced c k v).length (17 - (ivPlaced c k v).length) (ivPlaced c k v)

/-- `IVLoad(K, KW, V, IW, S)`: the 17 register words, mixed by one PHT (R128). -/
def ivLoad (c : Params) (s : Word → Rotation → Word) (k v : List Word) : Vector Word 17 :=
  toVector 17 (phtN (ivUnmixed c s k v))

/-- `T` after a `SETKEY`: the tables of the key schedule in `TABLE` and `FAST`, untouched in `REF` (R126). -/
def keyTables (c : Params) (mode : Mode) (ks : List Word) (t : Vector (Vector Word 256) 4) :
    Vector (Vector Word 256) 4 :=
  match mode with
  | .ref => t
  | .table => buildTables c ks
  | .fast => buildTables c ks

/-- The effect of a `SETKEY` that passed its checks (R126). -/
def loadKey (c : Params) (mode : Mode) (len : Nat) (b : Block) : Block :=
  let ks := keySchedule c (dinWords (wordCount len) b)
  clearDin { b with
    kw := Fin.ofNat 9 (wordCount len)
    k := toVector 8 ks
    mode := mode
    t := keyTables c mode ks b.t
    phase := .keyed }

/-- `SETKEY len, mode` (R126): phase, then length, then the effect. -/
def setkeyCommand (c : Params) (mode : Mode) (len : Nat) (b : Block) : Block :=
  if b.phase ≠ .empty then raiseErr .state b
  else if !keyLenLegal len then raiseErr .keyLen b
  else succeed (loadKey c mode len b)

/-- The effect of a `SETIV` that passed its checks (R129). -/
def loadIv (c : Params) (len : Nat) (b : Block) : Block :=
  clearDin { b with
    r := ivLoad c (keyedOf c b) (keyWords b) (dinWords (wordCount len) b)
    phase := .running }

/-- `SETIV len` (R129): phase, then IV length, then combined length, then the effect. -/
def setivCommand (c : Params) (len : Nat) (b : Block) : Block :=
  if b.phase ≠ .keyed then raiseErr .state b
  else if !ivLenLegal c len then raiseErr .ivLen b
  else if !kivLenLegal b.kw.val len then raiseErr .kivLen b
  else succeed (loadIv c len b)

/-- `ZEROIZE`: "every piece of state takes its reset value" (R131). -/
def zeroizeCommand (_ : Block) : Block := Block.reset

/-- `NOP` (R132): "`ERR <- 0`; nothing else changes, `FAULT` included". -/
def execNop (s : State) : Host.Outcome State Fault Refusal := .next (mapBlock succeed s)

/-- `SETKEY len, ref` (R126). -/
def execSetkeyRef (len : Nat) (s : State) : Host.Outcome State Fault Refusal :=
  .next (mapBlock (setkeyCommand Config.params .ref len) s)

/-- `SETKEY len, table` (R126). -/
def execSetkeyTable (len : Nat) (s : State) : Host.Outcome State Fault Refusal :=
  .next (mapBlock (setkeyCommand Config.params .table len) s)

/-- `SETKEY len, fast` (R126). -/
def execSetkeyFast (len : Nat) (s : State) : Host.Outcome State Fault Refusal :=
  .next (mapBlock (setkeyCommand Config.params .fast len) s)

/-- `SETIV len` (R129). -/
def execSetiv (len : Nat) (s : State) : Host.Outcome State Fault Refusal :=
  .next (mapBlock (setivCommand Config.params len) s)

/-- `ZEROIZE` (R131). -/
def execZeroize (s : State) : Host.Outcome State Fault Refusal := .next (mapBlock zeroizeCommand s)

end Sys2Proof.Machine
end

