-- ==== Sys2Proof/Machine/RegisterStep.lean ====
section
/-!
DEFINITION. The feedback register step in its shifting form, the architectural definition, and in the rolling-offset
form, its refinement (spec/43_register_step.md R115 to R117).
-/

namespace Sys2Proof.Machine

/-- The new word of a step, from words 0, 4 and 15 of the register before it (R115). -/
def newWord (c : Params) (r0 r4 r15 : Word) : Word := r15 ^^^ r4 ^^^ shl8 r0 ^^^ c.multab (top r0)

/-- `Step(R)`: every word moves one position down, the new word enters at 16 (R115). -/
def stepRegister (c : Params) (r : Vector Word 17) : Vector Word 17 :=
  Vector.ofFn fun i : Fin 17 => if h : i.val < 16 then r[i.val + 1] else newWord c r[0] r[4] r[15]

/-- `n` steps. -/
def stepRegisterTimes (c : Params) : Nat → Vector Word 17 → Vector Word 17
  | 0, r => r
  | n + 1, r => stepRegisterTimes c n (stepRegister c r)

/-- The rolling-offset form of the register: a physical array and the slot of logical word 0 (R116). It is no
architectural state (10_state R33). -/
structure OffsetReg where
  p : Vector Word 17
  z : Fin 17
  deriving DecidableEq, Repr

/-- Relative offset `o` from the current logical front: `P[(z + o) mod 17]` (R117). -/
def offsetAt (q : OffsetReg) (o : Fin 17) : Word := q.p[q.z + o]

/-- The logical register that the offset form represents, `R[i] = P[(z + i) mod 17]` (R116). -/
def offsetLogical (q : OffsetReg) : Vector Word 17 := Vector.ofFn fun i => offsetAt q i

/-- One step of the offset form: the slot of the old logical word 0 receives the new word, and `z` moves on (R116). -/
def offsetStep (c : Params) (q : OffsetReg) : OffsetReg where
  p := q.p.set q.z (newWord c (offsetAt q 0) (offsetAt q 4) (offsetAt q 15))
  z := q.z + 1

end Sys2Proof.Machine
end

