-- ==== Sys2Proof/Machine/RoundBatch.lean ====
section
/-!
DEFINITION. The round generator, the batch generator, the commands ROUND and BATCH, the batch generator's table of
constant slots, and the keystream (spec/46_round_batch.md R140 to R147).
-/

namespace Sys2Proof.Machine

/-- Step 4 of a round: KeyedS with rotations 0, 8, 16, 24, 0 on a, b, c, d, e (R140, 42_keyed_s R106). -/
def keyedFive (s : Word → Rotation → Word) (v : Five) : Five where
  a := s v.a .r0
  b := s v.b .r8
  c := s v.c .r16
  d := s v.d .r24
  e := s v.e .r0

/-- Word-wise addition of five words modulo 2^32 (R140 step 7). -/
def addFive (v x : Five) : Five where
  a := v.a + x.a
  b := v.b + x.b
  c := v.c + x.c
  d := v.d + x.d
  e := v.e + x.e

/-- Steps 3 to 5 of a round: PHT, KeyedS, PHT (R140). -/
def mixFive (s : Word → Rotation → Word) (v : Five) : Five := pht5 (keyedFive s (pht5 v))

/-- The first extraction, offsets 16, 13, 6, 1, 0 (R140 step 2). -/
def extractFirst (r : Vector Word 17) : Five where
  a := r[16]
  b := r[13]
  c := r[6]
  d := r[1]
  e := r[0]

/-- The second extraction, offsets 14, 12, 8, 1, 0 (R140 step 7). -/
def extractSecond (r : Vector Word 17) : Five where
  a := r[14]
  b := r[12]
  c := r[8]
  d := r[1]
  e := r[0]

/-- `Round(R, S)` (R140): one step, extract, mix, three steps, add the second extraction, one step. -/
def generateRound (c : Params) (s : Word → Rotation → Word) (r : Vector Word 17) : Vector Word 17 × Five :=
  let r1 := stepRegister c r
  let r4 := stepRegisterTimes c 3 r1
  (stepRegister c r4, addFive (mixFive s (extractFirst r1)) (extractSecond r4))

/-- `n` rounds in generation order: the register after them and their outputs (R142). -/
def generateRounds (c : Params) (s : Word → Rotation → Word) : Nat → Vector Word 17 → Vector Word 17 × List Five
  | 0, r => (r, [])
  | n + 1, r =>
    let o := generateRound c s r
    let os := generateRounds c s n o.1
    (os.1, o.2 :: os.2)

/-- `Batch(R, S)`: 17 rounds and their 85 words, slice `n` at words `5n .. 5n+4` (R142). -/
def generateBatch (c : Params) (s : Word → Rotation → Word) (r : Vector Word 17) : Vector Word 17 × List Word :=
  let os := generateRounds c s 17 r
  (os.1, os.2.flatMap Five.words)

/-- The effect of a `ROUND` that passed its checks (R141). -/
def runRound (c : Params) (b : Block) : Block :=
  let o := generateRound c (keyedOf c b) b.r
  storeRound o.2 { b with r := o.1 }

/-- `ROUND` (R141): phase, then mode, then the effect. -/
def roundCommand (c : Params) (b : Block) : Block :=
  if b.phase ≠ .running then raiseErr .state b
  else if b.mode = .fast then raiseErr .mode b
  else succeed (runRound c b)

/-- The effect of a `BATCH` that passed its checks (R143). -/
def runBatch (c : Params) (b : Block) : Block :=
  let o := generateBatch c (keyedOf c b) b.r
  storeBatch o.2 { b with r := o.1 }

/-- `BATCH` (R143): phase, then mode, then the effect. -/
def batchCommand (c : Params) (b : Block) : Block :=
  if b.phase ≠ .running then raiseErr .state b
  else if b.mode ≠ .fast then raiseErr .mode b
  else succeed (runBatch c b)

/-- `ROUND` (R141). -/
def execRound (s : State) : Host.Outcome State Fault Refusal := .next (mapBlock (roundCommand Config.params) s)

/-- `BATCH` (R143). -/
def execBatch (s : State) : Host.Outcome State Fault Refusal := .next (mapBlock (batchCommand Config.params) s)

/-- The first extraction in the offset form (43_register_step R117). -/
def offsetExtractFirst (q : OffsetReg) : Five where
  a := offsetAt q 16
  b := offsetAt q 13
  c := offsetAt q 6
  d := offsetAt q 1
  e := offsetAt q 0

/-- The second extraction in the offset form (43_register_step R117). -/
def offsetExtractSecond (q : OffsetReg) : Five where
  a := offsetAt q 14
  b := offsetAt q 12
  c := offsetAt q 8
  d := offsetAt q 1
  e := offsetAt q 0

/-- A round on the rolling-offset form of the register (R140 with 43_register_step R116, R117). -/
def offsetRound (c : Params) (s : Word → Rotation → Word) (q : OffsetReg) : OffsetReg × Five :=
  let q1 := offsetStep c q
  let q4 := offsetStep c (offsetStep c (offsetStep c q1))
  (offsetStep c q4, addFive (mixFive s (offsetExtractFirst q1)) (offsetExtractSecond q4))

/-- One row of the table of R144: the slots written by the five steps, and the slots of (a, b, c, d, e) in the two
extractions. -/
structure OffsetRow where
  written : Vector (Fin 17) 5
  first : Vector (Fin 17) 5
  second : Vector (Fin 17) 5
  deriving DecidableEq, Repr

/-- The "fixed relative-offset table" as R144 prints it, for `z = 0` at the start of the batch. -/
def offsetTable : List OffsetRow :=
  [ ⟨#v[0, 1, 2, 3, 4], #v[0, 14, 7, 2, 1], #v[1, 16, 12, 5, 4]⟩,
    ⟨#v[5, 6, 7, 8, 9], #v[5, 2, 12, 7, 6], #v[6, 4, 0, 10, 9]⟩,
    ⟨#v[10, 11, 12, 13, 14], #v[10, 7, 0, 12, 11], #v[11, 9, 5, 15, 14]⟩,
    ⟨#v[15, 16, 0, 1, 2], #v[15, 12, 5, 0, 16], #v[16, 14, 10, 3, 2]⟩,
    ⟨#v[3, 4, 5, 6, 7], #v[3, 0, 10, 5, 4], #v[4, 2, 15, 8, 7]⟩,
    ⟨#v[8, 9, 10, 11, 12], #v[8, 5, 15, 10, 9], #v[9, 7, 3, 13, 12]⟩,
    ⟨#v[13, 14, 15, 16, 0], #v[13, 10, 3, 15, 14], #v[14, 12, 8, 1, 0]⟩,
    ⟨#v[1, 2, 3, 4, 5], #v[1, 15, 8, 3, 2], #v[2, 0, 13, 6, 5]⟩,
    ⟨#v[6, 7, 8, 9, 10], #v[6, 3, 13, 8, 7], #v[7, 5, 1, 11, 10]⟩,
    ⟨#v[11, 12, 13, 14, 15], #v[11, 8, 1, 13, 12], #v[12, 10, 6, 16, 15]⟩,
    ⟨#v[16, 0, 1, 2, 3], #v[16, 13, 6, 1, 0], #v[0, 15, 11, 4, 3]⟩,
    ⟨#v[4, 5, 6, 7, 8], #v[4, 1, 11, 6, 5], #v[5, 3, 16, 9, 8]⟩,
    ⟨#v[9, 10, 11, 12, 13], #v[9, 6, 16, 11, 10], #v[10, 8, 4, 14, 13]⟩,
    ⟨#v[14, 15, 16, 0, 1], #v[14, 11, 4, 16, 15], #v[15, 13, 9, 2, 1]⟩,
    ⟨#v[2, 3, 4, 5, 6], #v[2, 16, 9, 4, 3], #v[3, 1, 14, 7, 6]⟩,
    ⟨#v[7, 8, 9, 10, 11], #v[7, 4, 14, 9, 8], #v[8, 6, 2, 12, 11]⟩,
    ⟨#v[12, 13, 14, 15, 16], #v[12, 9, 2, 14, 13], #v[13, 11, 7, 0, 16]⟩ ]

/-- Row `n` of the table by its rule: round `n` begins with `z = 5n mod 17`, extracts offsets 16, 13, 6, 1, 0 at
`z = (5n + 1) mod 17` and offsets 14, 12, 8, 1, 0 at `z = (5n + 4) mod 17`, and slot `(z + o) mod 17` holds offset `o`
(R144). -/
def offsetRowAt (n : Nat) : OffsetRow :=
  let slot := fun o => Fin.ofNat 17 (5 * n + o)
  { written := #v[slot 0, slot 1, slot 2, slot 3, slot 4]
    first := #v[slot 17, slot 14, slot 7, slot 2, slot 1]
    second := #v[slot 18, slot 16, slot 12, slot 5, slot 4] }

/-- A step on the physical array that writes slot `z`, a constant of the unrolled batch (R144). -/
def slotStep (c : Params) (p : Vector Word 17) (z : Fin 17) : Vector Word 17 :=
  p.set z (newWord c p[z] p[z + 4] p[z + 15])

/-- The words in five physical slots. -/
def slotExtract (p : Vector Word 17) (o : Vector (Fin 17) 5) : Five where
  a := p[o[0]]
  b := p[o[1]]
  c := p[o[2]]
  d := p[o[3]]
  e := p[o[4]]

/-- A round of the unrolled batch: constant slots in place of a zero offset (R144). -/
def unrolledRound (c : Params) (s : Word → Rotation → Word) (row : OffsetRow) (p : Vector Word 17) :
    Vector Word 17 × Five :=
  let p1 := slotStep c p row.written[0]
  let p4 := slotStep c (slotStep c (slotStep c p1 row.written[1]) row.written[2]) row.written[3]
  (slotStep c p4 row.written[4], addFive (mixFive s (slotExtract p1 row.first)) (slotExtract p4 row.second))

/-- The unrolled rounds of the given table rows, in order. -/
def unrolledRounds (c : Params) (s : Word → Rotation → Word) :
    List OffsetRow → Vector Word 17 → Vector Word 17 × List Five
  | [], p => (p, [])
  | row :: rows, p =>
    let o := unrolledRound c s row p
    let os := unrolledRounds c s rows o.1
    (os.1, o.2 :: os.2)

/-- The batch with constant slots, on the physical array (R144). -/
def unrolledBatch (c : Params) (s : Word → Rotation → Word) (p : Vector Word 17) : Vector Word 17 × List Word :=
  let os := unrolledRounds c s offsetTable p
  (os.1, os.2.flatMap Five.words)

/-- The register `R_n` before round `n` of a (key schedule, IV) pair, on the direct form of KeyedS (R146). -/
def keystreamRegister (c : Params) (k v : List Word) (n : Nat) : Vector Word 17 :=
  (generateRounds c (keyedS c k) n (ivLoad c (keyedS c k) k v)).1

/-- The five words of round `n` of the keystream (R146). -/
def keystreamRound (c : Params) (k v : List Word) (n : Nat) : Five :=
  (generateRound c (keyedS c k) (keystreamRegister c k v n)).2

/-- `KS[j]`, the keystream byte of round `j div 20` at position `j mod 20`, for key words and IV words packed
big-endian (R146). -/
def keystream (c : Params) (key iv : List Word) (j : Nat) : Byte :=
  (serialize (keystreamRound c (keySchedule c key) iv (j / 20)).words).getD (j % 20) 0

end Sys2Proof.Machine
end

