-- ==== Sys2Proof/Machine/Dispatch.lean ====
section
/-!
DEFINITION. The dispatch: one arm per constructor of `Instr`, each a direct call of its meaning.
-/

namespace Sys2Proof.Machine

def exec (i : Instr) (s : State) : Host.Outcome State Fault Refusal :=
  match i with
  | .nop => Sys2Proof.Machine.execNop s
  | .setkeyRef len => Sys2Proof.Machine.execSetkeyRef len s
  | .setkeyTable len => Sys2Proof.Machine.execSetkeyTable len s
  | .setkeyFast len => Sys2Proof.Machine.execSetkeyFast len s
  | .setiv len => Sys2Proof.Machine.execSetiv len s
  | .round => Sys2Proof.Machine.execRound s
  | .batch => Sys2Proof.Machine.execBatch s
  | .zeroize => Sys2Proof.Machine.execZeroize s

end Sys2Proof.Machine
end

