-- ==== Sys2Proof/Machine/Flags.lean ====
section
/-!
DEFINITION. The numeric codes of `PHASE`, `MODE` and `ERR`, and the `STATUS` word assembled from state
(spec/10_state.md R28, R29, R31; 60_exceptions R176). The block has no condition codes and no arithmetic flags (R29).
-/

namespace Sys2Proof.Machine

/-- `PHASE` in `STATUS` bits 1:0 (10_state R31); value 3 is never read. -/
def Phase.code : Phase → Nat
  | .empty => 0
  | .keyed => 1
  | .running => 2

/-- `MODE` in `STATUS` bits 3:2 and in a `SETKEY` word (10_state R28, R31); value 3 is never read. -/
def Mode.code : Mode → Nat
  | .ref => 0
  | .table => 1
  | .fast => 2

/-- The error codes of 60_exceptions R176. -/
def ErrCode.code : ErrCode → Nat
  | .none => 0
  | .opcode => 1
  | .state => 2
  | .mode => 3
  | .keyLen => 4
  | .ivLen => 5
  | .kivLen => 6
  | .addr => 7

/-- The `STATUS` word, "a view of other state with no storage of its own": `PHASE` 1:0, `MODE` 3:2, `KW` 7:4,
`ERR` 11:8, `FAULT` 12, `OCNT` 22:16, every other bit 0 (10_state R31). -/
def statusWord (b : Block) : Word :=
  BitVec.ofNat 32 (b.phase.code + b.mode.code * 2 ^ 2 + b.kw.val * 2 ^ 4 + b.err.code * 2 ^ 8
    + b.fault.toNat * 2 ^ 12 + b.ocnt.val * 2 ^ 16)

end Sys2Proof.Machine
end

