-- ==== Sys2Proof/Machine/Port.lean ====
section
/-!
DEFINITION. The port space: the port map, `PortRead`, `Execute`, `PortWrite` (spec/20_memory.md R51 to R55,
30_encoding R76), the reset event (70_reset_and_hazards R200), and how the host's next access is served
(20_memory R58, R59).
-/

namespace Sys2Proof.Machine

/-- What a port index names (20_memory R51). -/
inductive Port where
  | cmd
  | status
  | din (i : Fin 12)
  | dout (i : Fin 85)
  | unmapped
  deriving DecidableEq, Repr

/-- The port map of 20_memory R51. -/
def portOf (idx : PortIndex) : Port :=
  if idx.toNat = 0x00 then .cmd
  else if idx.toNat = 0x01 then .status
  else if h : 0x10 ≤ idx.toNat ∧ idx.toNat ≤ 0x1B then .din ⟨idx.toNat - 0x10, by omega⟩
  else if h : 0x80 ≤ idx.toNat ∧ idx.toNat ≤ 0xD4 then .dout ⟨idx.toNat - 0x80, by omega⟩
  else .unmapped

/-- `PortRead(idx)`: the word read and the block after it (20_memory R53). -/
def portRead (idx : PortIndex) (b : Block) : Word × Block :=
  match portOf idx with
  | .cmd => (0, b)
  | .status => (statusWord b, b)
  | .din _ => (0, b)
  | .dout i => (readDout i b, b)
  | .unmapped => (0, raiseErr .addr b)

/-- `Execute(v)`: a word that decodes runs its instruction; an illegal encoding raises `ERR_OPCODE`
(30_encoding R75, R76). -/
def execute (v : Word) (s : State) : Host.Outcome State Fault Refusal :=
  match decode v with
  | .ok i => exec i s
  | .error _ => .next (mapBlock (raiseErr .opcode) s)

/-- `PortWrite(idx, v)` (20_memory R54). -/
def portWrite (idx : PortIndex) (v : Word) (s : State) : Host.Outcome State Fault Refusal :=
  match portOf idx with
  | .cmd => execute v s
  | .status => .next s
  | .din i => .next (mapBlock (writeDin i v) s)
  | .dout _ => .next s
  | .unmapped => .next (mapBlock (raiseErr .addr) s)

/-- What one host event does: a read also records the word it returned (70_reset_and_hazards R214); reset gives every
piece of the block's state its reset value (R200). -/
def access (e : HostEvent) (s : State) : Host.Outcome State Fault Refusal :=
  match e with
  | .read idx => .next { s with block := (portRead idx s.block).2, replies := s.replies ++ [(portRead idx s.block).1] }
  | .write idx v => portWrite idx v s
  | .reset => .next { s with block := Block.reset }

/-- A sequence of host events, each seeing the state left by all before it (20_memory R58). -/
def accessAll : List HostEvent → State → Host.Outcome State Fault Refusal
  | [], s => .next s
  | e :: es, s => andThen (access e s) (accessAll es)

/-- The host's next access, served to completion (20_memory R59); with none placed the block stays idle: "it does
nothing until the host writes a port" (70_reset_and_hazards R201). -/
def serve (s : State) : Host.Outcome State Fault Refusal :=
  match s.pending with
  | [] => .next s
  | e :: es => access e { s with pending := es }

/-- The host's write of a command word of `nbits` bits to `CMD` (20_memory R54). -/
def commandWrite (nbits w : Nat) : HostEvent := .write 0x00 (BitVec.ofNat 32 (w % 2 ^ nbits))

end Sys2Proof.Machine
end

