-- ==== Sys2Proof/Machine/Step.lean ====
section
/-!
DEFINITION. One step of the block: one host access to the port space, or idling (spec/00_scope.md R12).
-/

namespace Sys2Proof.Machine

/-- One step: the host's next access, served to completion (00_scope R12, 20_memory R59). -/
def step (s : State) : Host.Outcome State Fault Refusal := serve s

/-- The state whose next host access is the write of the command word `w` to `CMD`: the block fetches nothing
(10_state R32), so placing that access is what makes the next step run it (log entry 1). -/
def State.withFetchWord (s : State) (nbits w : Nat) : State :=
  { s with pending := commandWrite nbits w :: s.pending }

end Sys2Proof.Machine
end

