-- ==== Sys2Proof/Laws/PerInstr.lean ====
section
/-!
SUPPORT. Statements made per instruction: family `DecodeEncode`, the decoder reads back the word that the encoder
writes for a well-formed instruction.
-/

namespace Sys2Proof.Laws

/-- The decoder reads the instruction back from its own word (30_encoding R72, R76). -/
def DecodeEncode.Statement (i : Instr) : Prop := i.wellFormed = true → decode (encode i) = .ok i

theorem fieldZero_pack (opc len mode : Nat) :
    fieldZero (packCommand opc len mode) = 0 := by
  simp only [fieldZero, bits, packCommand, BitVec.toNat_ofNat]; omega

theorem fieldMode_pack (opc len mode : Nat) (hm : mode < 256) :
    fieldMode (packCommand opc len mode) = mode := by
  simp only [fieldMode, bits, packCommand, BitVec.toNat_ofNat]; omega

theorem fieldLen_pack (opc len mode : Nat) (hl : len < 256) (hm : mode < 256) :
    fieldLen (packCommand opc len mode) = len := by
  simp only [fieldLen, bits, packCommand, BitVec.toNat_ofNat]; omega

theorem fieldOpc_pack (opc len mode : Nat) (ho : opc < 256) (hl : len < 256) (hm : mode < 256) :
    fieldOpc (packCommand opc len mode) = opc := by
  simp only [fieldOpc, bits, packCommand, BitVec.toNat_ofNat]; omega

theorem DecodeEncode.nop : DecodeEncode.Statement .nop := fun _ => by decide

theorem DecodeEncode.setkeyRef (len : Nat) : DecodeEncode.Statement (.setkeyRef len) := fun h => by
  have hl : len < 256 := by simpa [Instr.wellFormed, lenFits] using h
  simp [decode, encode, fieldZero_pack, fieldMode_pack, fieldLen_pack, fieldOpc_pack, hl]

theorem DecodeEncode.setkeyTable (len : Nat) : DecodeEncode.Statement (.setkeyTable len) := fun h => by
  have hl : len < 256 := by simpa [Instr.wellFormed, lenFits] using h
  simp [decode, encode, fieldZero_pack, fieldMode_pack, fieldLen_pack, fieldOpc_pack, hl]

theorem DecodeEncode.setkeyFast (len : Nat) : DecodeEncode.Statement (.setkeyFast len) := fun h => by
  have hl : len < 256 := by simpa [Instr.wellFormed, lenFits] using h
  simp [decode, encode, fieldZero_pack, fieldMode_pack, fieldLen_pack, fieldOpc_pack, hl]

theorem DecodeEncode.setiv (len : Nat) : DecodeEncode.Statement (.setiv len) := fun h => by
  have hl : len < 256 := by simpa [Instr.wellFormed, lenFits] using h
  simp [decode, encode, fieldZero_pack, fieldMode_pack, fieldLen_pack, fieldOpc_pack, hl]

theorem DecodeEncode.round : DecodeEncode.Statement .round := fun _ => by decide

theorem DecodeEncode.batch : DecodeEncode.Statement .batch := fun _ => by decide

theorem DecodeEncode.zeroize : DecodeEncode.Statement .zeroize := fun _ => by decide

end Sys2Proof.Laws
end

