-- ==== Sys2Proof/Machine/Instances.lean ====
section
/-!
DEFINITION. Several independent instances: "the product of independent copies of this spec's state" (spec/20_memory.md
R62, 60_exceptions R189). They share the constants of Config only.
-/

namespace Sys2Proof.Machine

/-- One step of instance `i`; the other instances keep their state. With no such instance nothing happens. -/
def stepInstance (i : Nat) (ss : List State) : Host.Outcome (List State) Fault Refusal :=
  match ss[i]? with
  | none => .next ss
  | some s => andThen (step s) fun s' => .next (ss.set i s')

end Sys2Proof.Machine
end

