-- ==== Sys2Proof/Machine/Assembler.lean ====
section
/-!
DEFINITION. The statement forms and pseudo-instructions in which the spec writes host programs, as the port accesses
they stand for (spec/30_encoding.md R77, R78). "These are notational only; the block sees port accesses."
-/

namespace Sys2Proof.Machine

/-- A statement of a host program (R77) or a pseudo-instruction (R78). -/
inductive Stmt where
  | wr (idx : PortIndex) (v : Word)
  | rd (idx : PortIndex)
  | nop
  | setkey (len : Nat) (mode : Mode)
  | setiv (len : Nat)
  | round
  | batch
  | zeroize
  | ldkey (mode : Mode) (bytes : List Byte)
  | ldiv (bytes : List Byte)
  | rdks (n : Nat)
  | status
  deriving DecidableEq, Repr

/-- The operand ranges of R77 and R78; outside them a statement cannot be written. -/
def Stmt.legal : Stmt → Bool
  | .setkey len _ => lenFits len
  | .setiv len => lenFits len
  | .ldkey _ bytes => bytes.length % 4 == 0 && bytes.length ≤ 48
  | .ldiv bytes => bytes.length % 4 == 0 && bytes.length ≤ 48
  | .rdks n => 1 ≤ n && n ≤ 85
  | .wr _ _ => true
  | .rd _ => true
  | .nop => true
  | .round => true
  | .batch => true
  | .zeroize => true
  | .status => true

/-- The instruction `setkey len, mode` stands for (R77). -/
def setkeyInstr (len : Nat) : Mode → Instr
  | .ref => .setkeyRef len
  | .table => .setkeyTable len
  | .fast => .setkeyFast len

/-- A write of an instruction's command word to `CMD` (R77). -/
def commandEvent (i : Instr) : HostEvent := .write 0x00 (encode i)

/-- `wr 0x10+i, w` for each word in order, from `DIN[i]` on (R78). -/
def dinEvents : Nat → List Word → List HostEvent
  | _, [] => []
  | i, w :: ws => .write (BitVec.ofNat 8 (0x10 + i)) w :: dinEvents (i + 1) ws

/-- The port accesses a statement stands for (R77, R78). -/
def expand : Stmt → List HostEvent
  | .wr idx v => [.write idx v]
  | .rd idx => [.read idx]
  | .nop => [commandEvent .nop]
  | .setkey len mode => [commandEvent (setkeyInstr len mode)]
  | .setiv len => [commandEvent (.setiv len)]
  | .round => [commandEvent .round]
  | .batch => [commandEvent .batch]
  | .zeroize => [commandEvent .zeroize]
  | .ldkey mode bytes => dinEvents 0 (packWords bytes) ++ [commandEvent (setkeyInstr bytes.length mode)]
  | .ldiv bytes => dinEvents 0 (packWords bytes) ++ [commandEvent (.setiv bytes.length)]
  | .rdks n => (List.range n).map fun i => .read (BitVec.ofNat 8 (0x80 + i))
  | .status => [.read 0x01]

/-- The port accesses of a program, statement after statement (R77). -/
def assemble (program : List Stmt) : List HostEvent := program.flatMap expand

end Sys2Proof.Machine
end

