-- ==== Sys2Proof/Machine/HostStream.lean ====
section
/-!
DEFINITION. The host's streaming transform and final-block padding (spec/47_host_stream.md R156 to R167): software
that drives one block through its port space. "A model of the block alone needs none of these rules."
-/

namespace Sys2Proof.Machine

/-- The padding schemes a transform may have; the fifth, `None`, "is not a legal value" (R156) and is the absent
argument of `construct` (R166). -/
inductive Padding where
  | zeros
  | ansiX923
  | pkcs7
  | random
  deriving DecidableEq, Repr

/-- The host transform object (R156): (a) the block it owns, (b) the leftover queue `Q`, (c) `PAD`. -/
structure Transform where
  block : State
  queue : List Byte
  pad : Padding
  deriving DecidableEq, Repr

/-- The construction errors of R157: the padding mode, the key, the IV (or the combined length). -/
inductive ConstructionError where
  | padding
  | key
  | iv
  deriving DecidableEq, Repr

/-- What a construction leaves: a transform, or an error and the block as it then stands. -/
inductive ConstructResult where
  | made (t : Transform)
  | failed (e : ConstructionError) (block : State)
  deriving DecidableEq, Repr

/-- The one error kind of the transform calls, "a range error" (R159, R162). -/
inductive RangeError where
  | range
  deriving DecidableEq, Repr

/-- `STATUS.ERR` as the host reads it at port 0x01 (10_state R31). -/
def hostErr (s : State) : Nat := bits 11 8 (portRead 0x01 s.block).1

/-- The length the host passes in `LEN` for a byte string: its true length (R157), and 255, which no key or IV may
have, for a string longer than `LEN` can say (log entry 5). -/
def hostLen (bytes : List Byte) : Nat := min bytes.length 255

/-- The accesses by which the host presents a key or an IV: its whole words to `DIN` as far as `DIN` goes, then the
command (R157, 30_encoding R78; log entry 5). -/
def presentEvents (bytes : List Byte) (command : Instr) : List HostEvent :=
  dinEvents 0 ((packWords bytes).take 12) ++ [commandEvent command]

/-- A failed construction: "on any failure the block is left zeroized and no transform exists" (R157). -/
def constructFail (e : ConstructionError) (s : State) : Host.Outcome ConstructResult Fault Refusal :=
  andThen (access (commandEvent .zeroize) s) fun s' => .next (.failed e s')

/-- `Construct(key, iv, padding, mode)` on the block instance `s` (R157). -/
def construct (key iv : List Byte) (padding : Option Padding) (mode : Mode) (s : State) :
    Host.Outcome ConstructResult Fault Refusal :=
  match padding with
  | none => .next (.failed .padding s)
  | some pad =>
    andThen (access (commandEvent .zeroize) s) fun s0 =>
    andThen (accessAll (presentEvents key (setkeyInstr (hostLen key) mode)) s0) fun s1 =>
    if hostErr s1 ≠ 0 then constructFail .key s1
    else andThen (accessAll (presentEvents iv (.setiv (hostLen iv))) s1) fun s2 =>
      if hostErr s2 ≠ 0 then constructFail .iv s2
      else .next (.made { block := s2, queue := [], pad := pad })

/-- The keystream bytes the last generation command left: `BYTE(DOUT[j div 4], j mod 4)` for `j` in
`0 .. 4*OCNT - 1` (R158). -/
def doutBytes (b : Block) : List Byte := serialize (b.dout.toList.take b.ocnt.val)

/-- The generation command of the mode: `batch` in `FAST`, `round` in `REF` and `TABLE` (R158). -/
def generationCommand : Mode → Instr
  | .ref => .round
  | .table => .round
  | .fast => .batch

/-- Requesting new keystream: one generation command, and its bytes become the queue (R158). -/
def refill (t : Transform) : Host.Outcome Transform Fault Refusal :=
  andThen (access (commandEvent (generationCommand t.block.block.mode)) t.block) fun s =>
    .next { t with block := s, queue := doutBytes s.block }

/-- The next keystream byte: the first of the queue, after one refill if the queue is empty (R158). -/
def nextByte (t : Transform) : Host.Outcome (Byte × Transform) Fault Refusal :=
  match t.queue with
  | x :: q => .next (x, { t with queue := q })
  | [] =>
    andThen (refill t) fun t' =>
      match t'.queue with
      | x :: q => .next (x, { t' with queue := q })
      | [] => .fault .keystreamStarved

/-- `Next(n)`: the next `n` keystream bytes in order, leftovers drained before new rounds are requested (R158). -/
def nextBytes : Nat → Transform → Host.Outcome (List Byte × Transform) Fault Refusal
  | 0, t => .next ([], t)
  | n + 1, t =>
    andThen (nextByte t) fun (x, t') =>
    andThen (nextBytes n t') fun (xs, t'') => .next (x :: xs, t'')

/-- Byte-wise XOR of two byte strings (R159). -/
def xorBytes (xs ys : List Byte) : List Byte := List.zipWith (· ^^^ ·) xs ys

/-- The `count` bytes of `bs` from `offset` on. -/
def sliceBytes (bs : List Byte) (offset count : Nat) : List Byte := (bs.drop offset).take count

/-- `out` with `bs` written over it from `offset` on. -/
def overwriteBytes (out : List Byte) (offset : Nat) (bs : List Byte) : List Byte :=
  out.take offset ++ bs ++ out.drop (offset + bs.length)

/-- The checks of R159, "before any mutation of register state or output buffer". -/
def transformInRange (inputLen outputLen : Nat) (inputOffset inputCount outputOffset : Int) : Bool :=
  0 ≤ inputOffset && 0 ≤ inputCount && 0 ≤ outputOffset && inputOffset + inputCount ≤ inputLen
    && outputOffset + inputCount ≤ outputLen && inputCount % 20 == 0

/-- What a block transform leaves: the count of bytes written, the output buffer, the transform. -/
structure TransformResult where
  written : Nat
  output : List Byte
  transform : Transform
  deriving DecidableEq, Repr

/-- `Transform(input, inputOffset, inputCount, output, outputOffset)` (R159). -/
def transform (input : List Byte) (inputOffset inputCount : Int) (output : List Byte) (outputOffset : Int)
    (t : Transform) : Host.Outcome (Except RangeError TransformResult) Fault Refusal :=
  if transformInRange input.length output.length inputOffset inputCount outputOffset then
    andThen (nextBytes inputCount.toNat t) fun (ks, t') =>
      .next (.ok {
        written := inputCount.toNat
        output := overwriteBytes output outputOffset.toNat
          (xorBytes (sliceBytes input inputOffset.toNat inputCount.toNat) ks)
        transform := t' })
  else .next (.error .range)

/-- The `p` padding bytes of a scheme: under `Pkcs7` each has the value `p`; under `Zeros`, `AnsiX923` and `Random`
each is 0x00 (R163, R164, R165; log entry 7). -/
def paddingBytes (pad : Padding) (p : Nat) : List Byte :=
  match pad with
  | .pkcs7 => List.replicate p (BitVec.ofNat 8 p)
  | .zeros => List.replicate p 0
  | .ansiX923 => List.replicate p 0
  | .random => List.replicate p 0

/-- The checks of R162. -/
def finalInRange (inputLen : Nat) (inputOffset inputCount : Int) : Bool :=
  0 ≤ inputOffset && 0 ≤ inputCount && inputCount ≤ 20 && inputOffset + inputCount ≤ inputLen

/-- The padded final block: the real bytes, then the padding, 20 bytes in all (R162). -/
def finalBlock (pad : Padding) (bytes : List Byte) : List Byte := bytes ++ paddingBytes pad (20 - bytes.length)

/-- `TransformFinal(input, inputOffset, inputCount)`: the padded block XORed with the next 20 keystream bytes
(R162). -/
def transformFinal (input : List Byte) (inputOffset inputCount : Int) (t : Transform) :
    Host.Outcome (Except RangeError (List Byte × Transform)) Fault Refusal :=
  if finalInRange input.length inputOffset inputCount then
    andThen (nextBytes 20 t) fun (ks, t') =>
      .next (.ok (xorBytes (finalBlock t.pad (sliceBytes input inputOffset.toNat inputCount.toNat)) ks, t'))
  else .next (.error .range)

/-- The end of a transform's life: the host's zeroing duty, "when it is done with a stream" (70_reset_and_hazards R209),
its leftover queue cleared with the block (90_conflicts C8). -/
def releaseTransform (t : Transform) : Host.Outcome Transform Fault Refusal :=
  andThen (access (commandEvent .zeroize) t.block) fun s => .next { t with block := s, queue := [] }

/-- The caller's PKCS#7 unpad rule: read the last byte `v`, check `1 <= v <= 20` and that the last `v` bytes all equal
`v`, drop them (R164). -/
def pkcs7Unpad (bytes : List Byte) : Option (List Byte) :=
  match bytes.getLast? with
  | none => none
  | some v =>
    let front := bytes.take (bytes.length - v.toNat)
    if 1 ≤ v.toNat ∧ v.toNat ≤ 20 ∧ v.toNat ≤ bytes.length ∧ bytes = front ++ List.replicate v.toNat v
    then some front else none

end Sys2Proof.Machine
end

