-- ==== Sys2Proof/Safety.lean ====
section
/-!
DEFINITION. The invariants of spec/10_state.md R38 and what counts as a failure-free state (60_exceptions R186), in the
terms the statements use.
-/

namespace Sys2Proof.Machine

/-- "use `FAULT = 0` as that premise": no failure since reset or `ZEROIZE` (60_exceptions R186). -/
def faultFree (s : State) : Prop := s.block.fault = false

/-- The clauses on `K`, `KW` and `T` that hold once a key is loaded (10_state R38 (b)). -/
structure KeyLoaded (c : Params) (b : Block) : Prop where
  kw_pos : 1 ≤ b.kw.val
  k_upper_zero : ∀ i : Fin 8, b.kw.val ≤ i.val → b.k[i] = 0
  t_ref : b.mode = .ref → b.t = Block.reset.t
  t_tables : b.mode ≠ .ref → b.t = buildTables c (keyWords b)

/-- 10_state R38 (a). -/
structure EmptyClean (b : Block) : Prop where
  kw_zero : b.kw = 0
  mode_ref : b.mode = .ref
  ocnt_zero : b.ocnt = 0
  r_zero : b.r = Block.reset.r
  k_zero : b.k = Block.reset.k
  t_zero : b.t = Block.reset.t
  dout_zero : b.dout = Block.reset.dout

/-- 10_state R38 (b). -/
structure KeyedClean (c : Params) (b : Block) : Prop where
  key : KeyLoaded c b
  r_zero : b.r = Block.reset.r
  ocnt_zero : b.ocnt = 0
  dout_zero : b.dout = Block.reset.dout

/-- 10_state R38 (c), with 70_reset_and_hazards R210: "in modes `REF` and `TABLE` cells 5..84 are always zero". -/
structure RunningSound (c : Params) (b : Block) : Prop where
  key : KeyLoaded c b
  ocnt_slow : b.mode ≠ .fast → b.ocnt = 0 ∨ b.ocnt = 5
  ocnt_fast : b.mode = .fast → b.ocnt = 0 ∨ b.ocnt = 85
  dout_slow : b.mode ≠ .fast → ∀ i : Fin 85, 5 ≤ i.val → b.dout[i] = 0

/-- The state invariants "that hold after reset and after every host access" (10_state R38 (a) to (d)). -/
structure Inv (c : Params) (b : Block) : Prop where
  empty : b.phase = .empty → EmptyClean b
  keyed : b.phase = .keyed → KeyedClean c b
  running : b.phase = .running → RunningSound c b
  fault_err : b.fault = false → b.err = .none

/-- The illegal encodings, conditions (a) to (e) of 30_encoding R75, on the fields of R70. -/
def illegalEncoding (v : Word) : Prop :=
  v.extractLsb' 0 8 ≠ 0 ∨
  0x06 ≤ (v.extractLsb' 24 8).toNat ∨
  ((v.extractLsb' 24 8 = 0x00 ∨ v.extractLsb' 24 8 = 0x03 ∨ v.extractLsb' 24 8 = 0x04 ∨ v.extractLsb' 24 8 = 0x05) ∧
    (v.extractLsb' 16 8 ≠ 0 ∨ v.extractLsb' 8 8 ≠ 0)) ∨
  (v.extractLsb' 24 8 = 0x02 ∧ v.extractLsb' 8 8 ≠ 0) ∨
  (v.extractLsb' 24 8 = 0x01 ∧ 3 ≤ (v.extractLsb' 8 8).toNat)

/-- The indices of 20_memory R55 (unmapped). -/
def unmappedIndex (idx : PortIndex) : Prop :=
  (0x02 ≤ idx.toNat ∧ idx.toNat ≤ 0x0F) ∨ (0x1C ≤ idx.toNat ∧ idx.toNat ≤ 0x7F) ∨ 0xD5 ≤ idx.toNat

/-- The state a failure leaves: "exactly the state before the access, plus the two flags" (60_exceptions R185). -/
def failedWith (code : ErrCode) (s : State) : State := { s with block := { s.block with err := code, fault := true } }

/-- The error of a `SETKEY` after its encoding is checked: phase, then key length (60_exceptions R184). -/
def setkeyError (len : Nat) (b : Block) : ErrCode :=
  if b.phase ≠ .empty then .state
  else if len < 4 ∨ 32 < len ∨ len % 4 ≠ 0 then .keyLen
  else .none

/-- The error of a command after its encoding is checked: phase, then mode, then length (60_exceptions R184). -/
def commandError (c : Params) (i : Instr) (b : Block) : ErrCode :=
  match i with
  | .nop => .none
  | .setkeyRef len => setkeyError len b
  | .setkeyTable len => setkeyError len b
  | .setkeyFast len => setkeyError len b
  | .setiv len =>
    if b.phase ≠ .keyed then .state
    else if len % 4 ≠ 0 ∨ len < c.ivMin.bytes then .ivLen
    else if 48 < len + 4 * b.kw.val then .kivLen
    else .none
  | .round => if b.phase ≠ .running then .state else if b.mode = .fast then .mode else .none
  | .batch => if b.phase ≠ .running then .state else if b.mode ≠ .fast then .mode else .none
  | .zeroize => .none

/-- The KeyedS that runs in the block's mode: on `K` in `REF`, on `T` otherwise (42_keyed_s R110). -/
def modeKeyedS (b : Block) : Word → Rotation → Word :=
  if b.mode = .ref then keyedS Config.params (keyWords b) else keyedST b.t

/-- `n` generation commands, and the contents of `DOUT[0..OCNT-1]` after each, concatenated (46_round_batch R145). -/
def generateWith (i : Instr) : Nat → State → Host.Outcome (List Word × State) Fault Refusal
  | 0, s => .next ([], s)
  | n + 1, s =>
    andThen (exec i s) fun s' =>
    andThen (generateWith i n s') fun o =>
      .next (s'.block.dout.toList.take s'.block.ocnt.val ++ o.1, o.2)

/-- The key lengths a construction accepts: "`4 <= len(key) <= 32`, `len(key) % 4 == 0`" (47_host_stream R157). -/
def keyAccepted (key : List Byte) : Prop := 4 ≤ key.length ∧ key.length ≤ 32 ∧ key.length % 4 = 0

/-- The IV lengths a construction accepts beside a key (45_key_iv_load R129). -/
def ivAccepted (c : Params) (key iv : List Byte) : Prop :=
  iv.length % 4 = 0 ∧ c.ivMin.bytes ≤ iv.length ∧ key.length + iv.length ≤ 48

end Sys2Proof.Machine
end

