-- ==== Sys2Proof/Certificates/Slice0/Obligations.lean ====
section
/-!
DEFINITION. The statements for the provers, one `def Obligations.<Name> : Prop` each, from the numbered rules of spec/.
Where a statement rests on a rule the spec marks as derived, or on a choice of the model, its docstring says so.
-/

open Sys2Proof Sys2Proof.Machine

/-! ## Encoding -/

/-- Decode and encode agree, per instruction: every operand at every value the `LEN` field admits. -/
def Obligations.DecodeOfEncode : Prop :=
  ∀ i : Instr, Sys2Proof.Laws.DecodeEncode.Statement i

/-- Each command word has one meaning: what the decoder accepts is well-formed and is encoded as that very word. -/
def Obligations.EncodeOfDecode : Prop :=
  ∀ (v : Word) (i : Instr), decode v = .ok i → i.wellFormed = true ∧ encode i = v

/-- R75: the illegal encodings are exactly (a) to (e); executing one raises `ERR_OPCODE` with no other effect; every
other word is one of the commands and executing it runs that command. -/
def Obligations.IllegalEncodingsRaiseErrOpcode : Prop :=
  (∀ (v : Word) (s : State), illegalEncoding v → portWrite 0x00 v s = .next (failedWith .opcode s)) ∧
  (∀ (v : Word) (s : State), ¬ illegalEncoding v → ∃ i, decode v = .ok i ∧ portWrite 0x00 v s = exec i s) ∧
  (∀ v : Word, decode v = .ok .nop ↔ v = 0x00000000)

/-- R72: a word is the command of a row of the opcode table exactly when the row's match and mask accept it. -/
def Obligations.OpcodeTableRowsAgreeWithDecoder : Prop :=
  ∀ row ∈ opcodeTable, ∀ v : Word,
    row.accepts v = true ↔ ∃ i, decode v = .ok i ∧ i.mnemonic = row.mnemonic

/-- Words written out from 30_encoding R72 and 95_test_vectors V-D decode to the instructions they stand for. -/
def Obligations.SpecWordsDecode : Prop :=
  decode 0x00000000 = .ok .nop ∧ decode 0x01100000 = .ok (.setkeyRef 16) ∧ decode 0x01040100 = .ok (.setkeyTable 4) ∧
  decode 0x01100200 = .ok (.setkeyFast 16) ∧ decode 0x022C0000 = .ok (.setiv 44) ∧ decode 0x03000000 = .ok .round ∧
  decode 0x04000000 = .ok .batch ∧ decode 0x05000000 = .ok .zeroize

/-! ## Steps and the port space -/

/-- A step runs the decoded instruction: when the host's next access writes `CMD` with a word that decodes to `i`, the
step is `exec i` at the state with that access taken; the instruction is well-formed. That the step takes its access from
the list `pending`, and that `State.withFetchWord` places the word there, is the model's choice (log entry 1). -/
def Obligations.StepRunsDecodedInstruction : Prop :=
  (∀ (s : State) (v : Word) (es : List HostEvent) (i : Instr),
    s.pending = .write 0x00 v :: es → decode v = .ok i →
      i.wellFormed = true ∧ step s = exec i { s with pending := es }) ∧
  (∀ (s : State) (w : Nat) (i : Instr),
    decodeTableWord 32 w = some i → step (s.withFetchWord 32 w) = exec i s)

/-- R214: the block never stops: every step answers a next state, and so does every instruction. -/
def Obligations.NoStepStops : Prop :=
  (∀ s : State, ∃ t, step s = .next t) ∧ (∀ (i : Instr) (s : State), ∃ t, exec i s = .next t)

/-- R58, R59, R201: a step serves exactly the first placed access and leaves the rest placed; with none placed it
changes nothing. A read appends the word it returned to `replies`. (`pending` and `replies` are the model's choice,
log entry 1.) -/
def Obligations.StepServesFirstAccess : Prop :=
  (∀ s : State, s.pending = [] → step s = .next s) ∧
  (∀ (s : State) (idx : PortIndex) (es : List HostEvent), s.pending = .read idx :: es →
    step s = .next { block := (portRead idx s.block).2, pending := es,
                     replies := s.replies ++ [(portRead idx s.block).1] }) ∧
  (∀ (s : State) (idx : PortIndex) (v : Word) (es : List HostEvent), s.pending = .write idx v :: es →
    ∃ t, step s = .next t ∧ portWrite idx v s = .next { t with pending := s.pending } ∧
      t.pending = es ∧ t.replies = s.replies)

/-- R53: what a read of each index returns, and that a mapped read changes nothing. -/
def Obligations.PortReadByIndex : Prop :=
  ∀ (idx : PortIndex) (b : Block),
    (idx = 0x00 → portRead idx b = (0, b)) ∧
    (idx = 0x01 → portRead idx b = (statusWord b, b)) ∧
    (0x10 ≤ idx.toNat → idx.toNat ≤ 0x1B → portRead idx b = (0, b)) ∧
    (∀ i : Fin 85, idx.toNat = 0x80 + i.val → portRead idx b = (b.dout[i], b)) ∧
    (unmappedIndex idx → portRead idx b = (0, { b with err := .addr, fault := true }))

/-- R54: what a write to each index does; a write to `DIN` changes nothing but that cell, in every phase. -/
def Obligations.PortWriteByIndex : Prop :=
  ∀ (idx : PortIndex) (v : Word) (s : State),
    (idx = 0x00 → portWrite idx v s = execute v s) ∧
    (idx = 0x01 → portWrite idx v s = .next s) ∧
    (∀ i : Fin 12, idx.toNat = 0x10 + i.val →
      ∃ t, portWrite idx v s = .next t ∧ t.block.din[i] = v ∧ (∀ j : Fin 12, j ≠ i → t.block.din[j] = s.block.din[j]) ∧
        t = { s with block := { s.block with din := t.block.din } }) ∧
    (0x80 ≤ idx.toNat → idx.toNat ≤ 0xD4 → portWrite idx v s = .next s) ∧
    (unmappedIndex idx → portWrite idx v s = .next (failedWith .addr s))

/-- R55, R183: at an unmapped index a read returns 0 and a write stores nothing, both record `ERR_ADDR` and set `FAULT`,
no other state changes; and no other access that is not a command writes `ERR` or `FAULT`. -/
def Obligations.UnmappedAccessRecordsErrAddr : Prop :=
  (∀ (idx : PortIndex) (s : State), unmappedIndex idx →
    portRead idx s.block = (0, (failedWith .addr s).block) ∧
    ∀ v : Word, portWrite idx v s = .next (failedWith .addr s)) ∧
  (∀ (idx : PortIndex) (b : Block), ¬ unmappedIndex idx →
    (portRead idx b).2.err = b.err ∧ (portRead idx b).2.fault = b.fault) ∧
  (∀ (idx : PortIndex) (v : Word) (s t : State), ¬ unmappedIndex idx → idx ≠ 0x00 → portWrite idx v s = .next t →
    t.block.err = s.block.err ∧ t.block.fault = s.block.fault)

/-- R31: the fields of `STATUS`, the reserved bits, the ignored write, and the value after reset; in every state that
meets the invariant `MODE` and `KW` read 0 while `PHASE = EMPTY` and `OCNT` reads 0, 5 or 85. -/
def Obligations.StatusWordFields : Prop :=
  (∀ b : Block,
    (bits 1 0 (statusWord b) = match b.phase with | .empty => 0 | .keyed => 1 | .running => 2) ∧
    (bits 3 2 (statusWord b) = match b.mode with | .ref => 0 | .table => 1 | .fast => 2) ∧
    bits 7 4 (statusWord b) = b.kw.val ∧
    (bits 11 8 (statusWord b) = match b.err with
      | .none => 0 | .opcode => 1 | .state => 2 | .mode => 3 | .keyLen => 4 | .ivLen => 5 | .kivLen => 6 | .addr => 7) ∧
    (bits 12 12 (statusWord b) = if b.fault then 1 else 0) ∧
    bits 15 13 (statusWord b) = 0 ∧ bits 22 16 (statusWord b) = b.ocnt.val ∧ bits 31 23 (statusWord b) = 0) ∧
  (∀ b : Block, Inv Config.params b → b.phase = .empty →
    bits 3 2 (statusWord b) = 0 ∧ bits 7 4 (statusWord b) = 0) ∧
  (∀ b : Block, Inv Config.params b → bits 22 16 (statusWord b) ∈ [0, 5, 85]) ∧
  (∀ (v : Word) (s : State), portWrite 0x01 v s = .next s) ∧
  statusWord Block.reset = 0x00000000

/-- R36: the host can read only `STATUS` and `DOUT` (two blocks that agree there answer every read alike, whatever `R`,
`K`, `T` and `DIN` hold) and write only `CMD` and `DIN` (a write elsewhere changes no cell and no control state but the
error record). -/
def Obligations.HostSeesStatusAndDoutWritesCmdAndDin : Prop :=
  (∀ (b b' : Block), statusWord b = statusWord b' → b.dout = b'.dout →
    ∀ idx : PortIndex, (portRead idx b).1 = (portRead idx b').1) ∧
  (∀ (idx : PortIndex) (v : Word) (s t : State), idx ≠ 0x00 → portWrite idx v s = .next t →
    t = { s with block := { s.block with din := t.block.din, err := t.block.err, fault := t.block.fault } } ∧
    (∀ i : Fin 12, t.block.din[i] ≠ s.block.din[i] → idx.toNat = 0x10 + i.val ∧ t.block.din[i] = v))

/-! ## Errors -/

/-- R185: a failure changes `ERR` and `FAULT` and nothing else: whatever word is executed, if it leaves an error code,
the state is the state before with that code and `FAULT` set; and so it is with an access to an unmapped index. -/
def Obligations.FailureChangesErrAndFaultOnly : Prop :=
  (∀ (v : Word) (s t : State), execute v s = .next t → t.block.err ≠ .none →
    t.block.fault = true ∧
    t.block.phase = s.block.phase ∧ t.block.mode = s.block.mode ∧ t.block.kw = s.block.kw ∧ t.block.k = s.block.k ∧
    t.block.t = s.block.t ∧ t.block.r = s.block.r ∧ t.block.din = s.block.din ∧ t.block.dout = s.block.dout ∧
    t.block.ocnt = s.block.ocnt ∧ t.pending = s.pending ∧ t.replies = s.replies) ∧
  (∀ (idx : PortIndex) (v : Word) (s : State), unmappedIndex idx →
    (portRead idx s.block).2 = { s.block with err := .addr, fault := true } ∧
    portWrite idx v s = .next { s with block := { s.block with err := .addr, fault := true } })

/-- R184: exactly one error is reported, the first that applies: the encoding, then phase, then mode, then lengths. -/
def Obligations.ErrorPriority : Prop :=
  ∀ (v : Word) (s t : State), execute v s = .next t →
    (illegalEncoding v → t.block.err = .opcode) ∧
    (∀ i, decode v = .ok i → t.block.err = commandError Config.params i s.block)

/-- R178 and R179: a well-formed command in a phase where it is not legal raises `ERR_STATE`, `NOP` and `ZEROIZE` never do;
in phase `RUNNING` a generation command that does not match `MODE` raises `ERR_MODE`. -/
def Obligations.WrongPhaseOrModeIsRefused : Prop :=
  (∀ (len : Nat) (s : State), s.block.phase ≠ .empty →
    exec (.setkeyRef len) s = .next (failedWith .state s) ∧
    exec (.setkeyTable len) s = .next (failedWith .state s) ∧
    exec (.setkeyFast len) s = .next (failedWith .state s)) ∧
  (∀ (len : Nat) (s : State), s.block.phase ≠ .keyed → exec (.setiv len) s = .next (failedWith .state s)) ∧
  (∀ s : State, s.block.phase ≠ .running →
    exec .round s = .next (failedWith .state s) ∧ exec .batch s = .next (failedWith .state s)) ∧
  (∀ s : State, ∃ t u, exec .nop s = .next t ∧ exec .zeroize s = .next u ∧
    t.block.err ≠ .state ∧ u.block.err ≠ .state) ∧
  (∀ s : State, s.block.phase = .running → s.block.mode = .fast →
    exec .round s = .next (failedWith .mode s)) ∧
  (∀ s : State, s.block.phase = .running → (s.block.mode = .ref ∨ s.block.mode = .table) →
    exec .batch s = .next (failedWith .mode s))

/-- R180: in phase `EMPTY` a key length that is not 4, 8, ..., 32 raises `ERR_KEYLEN`, 0 among them. -/
def Obligations.IllegalKeyLengthRaisesErrKeylen : Prop :=
  ∀ (len : Nat) (s : State), s.block.phase = .empty → len ∉ [4, 8, 12, 16, 20, 24, 28, 32] →
    exec (.setkeyRef len) s = .next (failedWith .keyLen s) ∧
    exec (.setkeyTable len) s = .next (failedWith .keyLen s) ∧
    exec (.setkeyFast len) s = .next (failedWith .keyLen s)

/-- R181 and R182: in phase `KEYED` an IV length that is no multiple of 4 or below `IV_MIN` raises `ERR_IVLEN`; after that
check has passed, a combined length above 48 raises `ERR_KIVLEN`. `ERR_IVLEN` comes of a length that is no multiple of 4
or, with `IV_MIN = 4` only, of a length below 4. -/
def Obligations.IllegalIvLengthRaisesErrIvlenOrKivlen : Prop :=
  (∀ (len : Nat) (s : State), s.block.phase = .keyed → (len % 4 ≠ 0 ∨ len < Config.IV_MIN.bytes) →
    exec (.setiv len) s = .next (failedWith .ivLen s)) ∧
  (∀ (len : Nat) (s : State), s.block.phase = .keyed → len % 4 = 0 → Config.IV_MIN.bytes ≤ len →
    48 < len + 4 * s.block.kw.val → exec (.setiv len) s = .next (failedWith .kivLen s)) ∧
  (∀ (len : Nat) (s t : State), exec (.setiv len) s = .next t → t.block.err = .ivLen →
    len % 4 ≠ 0 ∨ (Config.IV_MIN = .four ∧ len < 4))

/-- R29, R183: every failure sets `FAULT`: a command that leaves an error code, a `CMD` write of an illegal encoding, and a
read or a write at an unmapped index; a successful command other than `ZEROIZE` leaves it as it was, `ZEROIZE` clears it;
and once set it is cleared by nothing but a reset event or a `ZEROIZE` word. (`ErrorPriority` says which code a command
leaves; that a step takes its access from `pending` is the model's choice, log entry 1.) -/
def Obligations.FaultIsSticky : Prop :=
  (∀ (i : Instr) (s t : State), exec i s = .next t →
    (t.block.err = .none → t.block.fault = if i = .zeroize then false else s.block.fault) ∧
    (t.block.err ≠ .none → t.block.fault = true)) ∧
  (∀ (v : Word) (s : State), illegalEncoding v →
    ∃ t, portWrite 0x00 v s = .next t ∧ t.block.err = .opcode ∧ t.block.fault = true) ∧
  (∀ (idx : PortIndex) (s : State), unmappedIndex idx →
    (portRead idx s.block).2.err = .addr ∧ (portRead idx s.block).2.fault = true ∧
    ∀ v : Word, ∃ t, portWrite idx v s = .next t ∧ t.block.err = .addr ∧ t.block.fault = true) ∧
  (∀ s t : State, step s = .next t → s.block.fault = true → t.block.fault = false →
    ∃ es, s.pending = .reset :: es ∨ s.pending = .write 0x00 0x05000000 :: es)

/-! ## Completion: what each command does when it is legal -/

/-- R132: `NOP` is legal in every phase, writes `ERR <- 0` and changes nothing else; every other word with `OPC = 0` is
`ERR_OPCODE`. -/
def Obligations.NopClearsErrOnly : Prop :=
  (∀ s : State, exec .nop s = .next { s with block := { s.block with err := .none } }) ∧
  encode .nop = 0x00000000 ∧
  (∀ (v : Word) (s : State), v ≠ 0x00000000 → v.extractLsb' 24 8 = 0x00 →
    execute v s = .next (failedWith .opcode s))

/-- R131: `ZEROIZE` is legal in every phase and gives every piece of state its reset value; afterwards `STATUS` reads 0
and every `DOUT` read returns 0; a malformed `ZEROIZE` word zeroes nothing. -/
def Obligations.ZeroizeRestoresResetValues : Prop :=
  (∀ s : State, ∃ t, exec .zeroize s = .next t ∧
    (∀ i : Fin 17, t.block.r[i] = 0) ∧ (∀ i : Fin 8, t.block.k[i] = 0) ∧
    (∀ (p : Fin 4) (x : Byte), tableAt t.block.t p x = 0) ∧ (∀ i : Fin 12, t.block.din[i] = 0) ∧
    (∀ i : Fin 85, t.block.dout[i] = 0) ∧ t.block.kw = 0 ∧ t.block.ocnt = 0 ∧ t.block.phase = .empty ∧
    t.block.mode = .ref ∧ t.block.err = .none ∧ t.block.fault = false ∧
    (portRead 0x01 t.block).1 = 0x00000000 ∧
    (∀ idx : PortIndex, 0x80 ≤ idx.toNat → idx.toNat ≤ 0xD4 → (portRead idx t.block).1 = 0) ∧
    t.pending = s.pending ∧ t.replies = s.replies) ∧
  (∀ (v : Word) (s : State), v ≠ 0x05000000 → v.extractLsb' 24 8 = 0x05 →
    execute v s = .next (failedWith .opcode s))

/-- `SETKEY len, ref` completes in phase `EMPTY` for a legal length: `KW`, `K` (upper words 0), `MODE`, `PHASE`, cleared
`DIN`, `ERR = 0`; the tables, the register, `DOUT`, `OCNT`, `FAULT` and the host's side are unchanged (R125, R126). -/
def Obligations.SetkeyRefLoadsKeySchedule : Prop :=
  ∀ (len : Nat) (s : State), s.block.phase = .empty → 4 ≤ len → len ≤ 32 → len % 4 = 0 →
    ∃ t, exec (.setkeyRef len) s = .next t ∧
      t.block.phase = .keyed ∧ t.block.mode = .ref ∧ t.block.kw.val = len / 4 ∧
      (∀ i : Fin 8, i.val < len / 4 →
        (phtN ((s.block.din.toList.take (len / 4)).map (fixedS Config.params)))[i.val]? = some t.block.k[i]) ∧
      (∀ i : Fin 8, len / 4 ≤ i.val → t.block.k[i] = 0) ∧
      (∀ i : Fin 12, t.block.din[i] = 0) ∧ t.block.err = .none ∧
      t.block.t = s.block.t ∧ t.block.r = s.block.r ∧ t.block.dout = s.block.dout ∧ t.block.ocnt = s.block.ocnt ∧
      t.block.fault = s.block.fault ∧ t.pending = s.pending ∧ t.replies = s.replies

/-- `SETKEY len, table` and `SETKEY len, fast` complete in phase `EMPTY` for a legal length: as in mode `REF`, and every
entry of `T` is the entry that R107 builds from the new key schedule (R125, R126). -/
def Obligations.SetkeyTableAndFastBuildTables : Prop :=
  ∀ (len : Nat) (s : State), s.block.phase = .empty → 4 ≤ len → len ≤ 32 → len % 4 = 0 →
    ∃ t u, exec (.setkeyTable len) s = .next t ∧ exec (.setkeyFast len) s = .next u ∧
      t.block.mode = .table ∧ u = { t with block := { t.block with mode := .fast } } ∧
      t.block.phase = .keyed ∧ t.block.kw.val = len / 4 ∧
      (∀ i : Fin 8, i.val < len / 4 →
        (phtN ((s.block.din.toList.take (len / 4)).map (fixedS Config.params)))[i.val]? = some t.block.k[i]) ∧
      (∀ i : Fin 8, len / 4 ≤ i.val → t.block.k[i] = 0) ∧
      (∀ (p : Fin 4) (x : Byte), tableAt t.block.t p x = tableEntry Config.params (keyWords t.block) p x) ∧
      (∀ i : Fin 12, t.block.din[i] = 0) ∧ t.block.err = .none ∧
      t.block.r = s.block.r ∧ t.block.dout = s.block.dout ∧ t.block.ocnt = s.block.ocnt ∧
      t.block.fault = s.block.fault ∧ t.pending = s.pending ∧ t.replies = s.replies

/-- R126: "`DIN` words at index `KW` and above are ignored": the key loaded depends on `DIN[0..KW-1]` alone. -/
def Obligations.SetkeyIgnoresUpperDinWords : Prop :=
  ∀ (len : Nat) (s : State) (d : Vector Word 12), s.block.phase = .empty → keyLenLegal len = true →
    (∀ i : Fin 12, i.val < len / 4 → d[i] = s.block.din[i]) →
    exec (.setkeyRef len) { s with block := { s.block with din := d } } = exec (.setkeyRef len) s ∧
    exec (.setkeyTable len) { s with block := { s.block with din := d } } = exec (.setkeyTable len) s ∧
    exec (.setkeyFast len) { s with block := { s.block with din := d } } = exec (.setkeyFast len) s

/-- `SETIV len` completes in phase `KEYED` for a legal length: the register is the one R128 makes of the key schedule and
the IV words, `DIN` is cleared, the phase is `RUNNING`; everything else is unchanged (R129; the lines (a) to (d) of R128
are general knowledge the spec adopts, log entry 3). -/
def Obligations.SetivInitialisesRegister : Prop :=
  ∀ (len : Nat) (s : State), s.block.phase = .keyed → len % 4 = 0 → Config.IV_MIN.bytes ≤ len →
    len + 4 * s.block.kw.val ≤ 48 →
    ∃ t, exec (.setiv len) s = .next t ∧
      t.block.r = ivLoad Config.params (modeKeyedS s.block) (s.block.k.toList.take s.block.kw.val)
        (s.block.din.toList.take (len / 4)) ∧
      t.block.phase = .running ∧ (∀ i : Fin 12, t.block.din[i] = 0) ∧ t.block.err = .none ∧
      t.block.k = s.block.k ∧ t.block.kw = s.block.kw ∧ t.block.t = s.block.t ∧ t.block.mode = s.block.mode ∧
      t.block.dout = s.block.dout ∧ t.block.ocnt = s.block.ocnt ∧ t.block.fault = s.block.fault ∧
      t.pending = s.pending ∧ t.replies = s.replies

/-- `ROUND` completes in phase `RUNNING` in modes `REF` and `TABLE`: the register and `DOUT[0..4]` are those of one round
(R140), `OCNT = 5`, `DOUT[5..84]` and everything else unchanged (R141). -/
def Obligations.RoundProducesFiveWords : Prop :=
  ∀ s : State, s.block.phase = .running → s.block.mode ≠ .fast →
    ∃ t, exec .round s = .next t ∧
      t.block.r = (generateRound Config.params (modeKeyedS s.block) s.block.r).1 ∧
      (∀ i : Fin 85, i.val < 5 →
        (generateRound Config.params (modeKeyedS s.block) s.block.r).2.words[i.val]? = some t.block.dout[i]) ∧
      (∀ i : Fin 85, 5 ≤ i.val → t.block.dout[i] = s.block.dout[i]) ∧
      t.block.ocnt.val = 5 ∧ t.block.err = .none ∧
      t.block.k = s.block.k ∧ t.block.kw = s.block.kw ∧ t.block.t = s.block.t ∧ t.block.din = s.block.din ∧
      t.block.phase = s.block.phase ∧ t.block.mode = s.block.mode ∧ t.block.fault = s.block.fault ∧
      t.pending = s.pending ∧ t.replies = s.replies

/-- `BATCH` completes in phase `RUNNING` in mode `FAST`: `DOUT[5n..5n+4]` holds the words of round `n` of 17 rounds in
generation order on `T`, the register is the one after them, `OCNT = 85`, everything else unchanged (R142, R143). -/
def Obligations.BatchProducesSeventeenRounds : Prop :=
  ∀ s : State, s.block.phase = .running → s.block.mode = .fast →
    ∃ t, exec .batch s = .next t ∧
      t.block.r = (generateRounds Config.params (keyedST s.block.t) 17 s.block.r).1 ∧
      (∀ (n : Fin 17) (j : Fin 5) (i : Fin 85), i.val = 5 * n.val + j.val →
        (generateRound Config.params (keyedST s.block.t)
          (generateRounds Config.params (keyedST s.block.t) n.val s.block.r).1).2.words[j.val]? = some t.block.dout[i]) ∧
      t.block.ocnt.val = 85 ∧ t.block.err = .none ∧
      t.block.k = s.block.k ∧ t.block.kw = s.block.kw ∧ t.block.t = s.block.t ∧ t.block.din = s.block.din ∧
      t.block.phase = s.block.phase ∧ t.block.mode = s.block.mode ∧ t.block.fault = s.block.fault ∧
      t.pending = s.pending ∧ t.replies = s.replies

/-! ## Reset and whole-machine rules -/

/-- R200: the reset event gives every piece of the block's state its reset value, the same state `ZEROIZE` gives, and may
come at any time. (That the host's own lists are left alone is the model's choice, log entry 1.) -/
def Obligations.ResetEqualsZeroize : Prop :=
  (∀ s : State, ∃ t, access .reset s = .next t ∧ exec .zeroize s = .next t ∧
    t.block.r = Vector.replicate 17 0 ∧ t.block.k = Vector.replicate 8 0 ∧ t.block.kw = 0 ∧
    t.block.t = Vector.replicate 4 (Vector.replicate 256 0) ∧ t.block.din = Vector.replicate 12 0 ∧
    t.block.dout = Vector.replicate 85 0 ∧ t.block.ocnt = 0 ∧ t.block.phase = .empty ∧ t.block.mode = .ref ∧
    t.block.err = .none ∧ t.block.fault = false ∧ t.block = State.reset.block) ∧
  (∀ (s : State) (es : List HostEvent), s.pending = .reset :: es →
    step s = .next { s with block := State.reset.block, pending := es })

/-- The invariants of 10_state R38 hold of the state after reset, for every configuration. -/
def Obligations.InvariantHoldsAtReset : Prop :=
  ∀ c : Params, Inv c State.reset.block

/-- Every step keeps the invariants of 10_state R38 (and 70_reset_and_hazards R210): what is zero in `EMPTY` and `KEYED`,
that `K` is 0 above `KW`, that `T` is the tables of `K` exactly in `TABLE` and `FAST`, what `OCNT` can be, that
`FAULT = 0` implies `ERR = 0`. -/
def Obligations.StepKeepsInvariant : Prop :=
  ∀ s t : State, Inv Config.params s.block → step s = .next t → Inv Config.params t.block

/-- R27: the phase changes only along `EMPTY -SETKEY-> KEYED -SETIV-> RUNNING`, and back to `EMPTY` only by a reset event
or a `ZEROIZE` word, which give every piece of the block's state its reset value in every phase. (That a step takes its
access from `pending` is the model's choice, log entry 1.) -/
def Obligations.PhaseTransitions : Prop :=
  (∀ s t : State, step s = .next t →
    t.block.phase = s.block.phase ∨
    (s.block.phase = .empty ∧ t.block.phase = .keyed ∧
      ∃ v es i len, s.pending = .write 0x00 v :: es ∧ decode v = .ok i ∧
        (i = .setkeyRef len ∨ i = .setkeyTable len ∨ i = .setkeyFast len)) ∨
    (s.block.phase = .keyed ∧ t.block.phase = .running ∧
      ∃ v es len, s.pending = .write 0x00 v :: es ∧ decode v = .ok (.setiv len)) ∨
    (t.block = Block.reset ∧ ∃ es, s.pending = .reset :: es ∨ s.pending = .write 0x00 0x05000000 :: es)) ∧
  (∀ (s : State) (es : List HostEvent), s.pending = .reset :: es ∨ s.pending = .write 0x00 0x05000000 :: es →
    ∃ t, step s = .next t ∧ t.block = Block.reset)

/-- R23, R133: once a key is loaded, a step whose access is neither a reset event nor a `ZEROIZE` word keeps a key loaded
and leaves `K`, `KW`, `T` and `MODE` as they are; and in phase `RUNNING` it leaves the phase, and changes the register only
by 5 or 85 register steps. (That a step takes its access from `pending` is the model's choice, log entry 1.) -/
def Obligations.KeyMaterialImmutable : Prop :=
  ∀ s t : State, step s = .next t → s.block.phase ≠ .empty →
    (∀ es, s.pending ≠ .reset :: es ∧ s.pending ≠ .write 0x00 0x05000000 :: es) →
    t.block.phase ≠ .empty ∧
    t.block.k = s.block.k ∧ t.block.kw = s.block.kw ∧ t.block.t = s.block.t ∧ t.block.mode = s.block.mode ∧
    (s.block.phase = .running → t.block.phase = .running ∧ ∃ n, (n = 0 ∨ n = 5 ∨ n = 85) ∧
      t.block.r = stepRegisterTimes Config.params n s.block.r)

/-- R62, R189: a step of one instance is a step of that instance's own state and leaves every other instance alone. -/
def Obligations.InstancesAreIndependent : Prop :=
  ∀ (i : Nat) (ss ss' : List State) (s : State), ss[i]? = some s → stepInstance i ss = .next ss' →
    (∃ t, step s = .next t ∧ ss'[i]? = some t) ∧ (∀ j, j ≠ i → ss'[j]? = ss[j]?)

/-! ## Word utilities -/

/-- R93: `ROTL(w, 0) = w`, and bit `i` of `w` becomes bit `(i + n) mod 32` of `ROTL(w, n)`. -/
def Obligations.RotlMovesBits : Prop :=
  (∀ w : Word, rotl w 0 = w) ∧
  (∀ (w : Word) (n : Nat), 1 ≤ n → n ≤ 31 → rotl w n = ((w <<< n) ||| (w >>> (32 - n)))) ∧
  (∀ (w : Word) (n i : Nat), n ≤ 31 → i < 32 → (rotl w n).getLsbD ((i + n) % 32) = w.getLsbD i)

/-- A word is its four bytes in their lanes, and a byte in lane `p` is that byte at position `p` and 0 elsewhere (R97,
which the spec derives from R90). -/
def Obligations.LanesPartitionWord : Prop :=
  (∀ w : Word, w = put (byteAt w 0) 0 ||| put (byteAt w 1) 1 ||| put (byteAt w 2) 2 ||| put (byteAt w 3) 3) ∧
  (∀ (b : Byte) (p q : Fin 4), byteAt (put b p) q = if q = p then b else 0)

/-- R92: `W2B` gives the four bytes, most significant first, and is the inverse of `B2W` both ways. -/
def Obligations.WordBytesRoundTrip : Prop :=
  (∀ w : Word, w2b w = [byteAt w 0, byteAt w 1, byteAt w 2, byteAt w 3]) ∧
  (∀ w : Word, b2w (byteAt w 0) (byteAt w 1) (byteAt w 2) (byteAt w 3) = w) ∧
  (∀ b0 b1 b2 b3 : Byte, w2b (b2w b0 b1 b2 b3) = [b0, b1, b2, b3])

/-- Rotation by a multiple of 8 permutes byte positions (R98, which the spec derives from R90 and R93). -/
def Obligations.RotationPermutesBytes : Prop :=
  ∀ (w : Word) (k p : Fin 4), byteAt (rotl w (8 * k.val)) p = byteAt w (p + k)

/-! ## Cipher functions -/

/-- FixedS is a bijection for every configuration, and its inverse is the one that undoes the passes in the order
3, 2, 1, 0 (R101, which the spec derives from R100). -/
def Obligations.FixedSBijective : Prop :=
  ∀ c : Params, (∀ w, fixedSInverse c (fixedS c w) = w) ∧ (∀ w, fixedS c (fixedSInverse c w) = w) ∧
    Function.Bijective (fixedS c)

/-- The table look-up form of KeyedS on the tables of a key schedule equals the direct form, for every configuration, key
schedule, word and rotation (R109, which the spec derives from R105, R107, R108). -/
def Obligations.KeyedSTableFormEqualsDirectForm : Prop :=
  ∀ (c : Params) (ks : List Word) (w : Word) (r : Rotation), keyedST (buildTables c ks) w r = keyedS c ks w r

/-- R121: the sum of all but the last is added to the last, the new last to all others; `PHT5` is the case of 5 words; one
word is left as it is. -/
def Obligations.PhtNFormula : Prop :=
  (∀ (ws : List Word) (x : Word), phtN (ws ++ [x]) = ws.map (· + (x + ws.sum)) ++ [x + ws.sum]) ∧
  (∀ v : Five, (pht5 v).words = phtN v.words) ∧
  (∀ x : Word, phtN [x] = [x]) ∧
  (∀ x y : Word, phtN [x, y] = [x + x + y, x + y])

/-- `PHTn` is a bijection on arrays of `n` words, with the inverse that the spec gives (R122, which it derives from
R121). -/
def Obligations.PhtNBijective : Prop :=
  (∀ ws : List Word, (phtN ws).length = ws.length) ∧
  (∀ ws : List Word, phtNInverse (phtN ws) = ws) ∧ (∀ ws : List Word, phtN (phtNInverse ws) = ws)

/-- Distinct keys of the same length give distinct key schedules (R125). -/
def Obligations.KeyScheduleInjective : Prop :=
  ∀ (c : Params) (d d' : List Word), d.length = d'.length → keySchedule c d = keySchedule c d' → d = d'

/-- R128: where the IV words, the key schedule words and the length word stand, the fill recurrence, and the final mix.
Lines (a) to (d) are general knowledge the spec adopts (log entry 3). -/
def Obligations.IvLoadPlacesFillsAndMixes : Prop :=
  ∀ (c : Params) (s : Word → Rotation → Word) (k v : List Word),
    1 ≤ k.length → k.length ≤ 8 → v.length + k.length ≤ 12 →
    (ivUnmixed c s k v).length = 17 ∧
    (∀ j, j < v.length → (ivUnmixed c s k v)[j]? = (v[j]?).map (fixedS c)) ∧
    (∀ j, j < k.length → (ivUnmixed c s k v)[v.length + j]? = k[j]?) ∧
    (ivUnmixed c s k v)[v.length + k.length]? = some (BitVec.ofNat 32 (0x01020300 + 16 * k.length + v.length)) ∧
    (∀ i, v.length + k.length + 1 ≤ i → i < 17 →
      (ivUnmixed c s k v).getD i 0 =
        s ((ivUnmixed c s k v).getD (i - (v.length + k.length + 1)) 0 + (ivUnmixed c s k v).getD (i - 1) 0) .r0) ∧
    (∀ i : Fin 17, (ivLoad c s k v)[i] =
      if i.val < 16 then (ivUnmixed c s k v).getD i.val 0 + (ivUnmixed c s k v).sum else (ivUnmixed c s k v).sum)

/-- R115: a step moves every word one position down and places the new word at 16. -/
def Obligations.StepShiftsRegister : Prop :=
  ∀ (c : Params) (r : Vector Word 17),
    (∀ i : Fin 16, (stepRegister c r)[i.val] = r[i.val + 1]) ∧
    (stepRegister c r)[16] = r[15] ^^^ r[4] ^^^ (r[0] <<< 8) ^^^ c.multab ((r[0] >>> 24).setWidth 8)

/-- The register step is linear over XOR exactly when `MULTAB` is (R115: a property of the supplied table). -/
def Obligations.StepLinearIffMultabLinear : Prop :=
  ∀ c : Params,
    (∀ r r' : Vector Word 17, stepRegister c (Vector.ofFn fun i : Fin 17 => r[i] ^^^ r'[i]) =
      Vector.ofFn fun i : Fin 17 => (stepRegister c r)[i] ^^^ (stepRegister c r')[i]) ↔
    (∀ x y : Byte, c.multab (x ^^^ y) = c.multab x ^^^ c.multab y)

/-- The rolling-offset form refines the shifting form, in any number of steps, and the zero offset is back where it
started after every multiple of 17 steps (R116, R117). -/
def Obligations.OffsetFormRefinesShiftingForm : Prop :=
  ∀ (c : Params) (q : OffsetReg) (n : Nat),
    offsetLogical ((offsetStep c)^[n] q) = stepRegisterTimes c n (offsetLogical q) ∧
    ((offsetStep c)^[17 * n] q).z = q.z

/-- A round in terms of the register at entry: the words its two extractions read, its output, and the register it
leaves (R140). -/
def Obligations.RoundInTermsOfEntryRegister : Prop :=
  ∀ (c : Params) (s : Word → Rotation → Word) (r : Vector Word 17),
    ∃ n1 n2 n3 n4 n5 : Word,
      n1 = r[15] ^^^ r[4] ^^^ (r[0] <<< 8) ^^^ c.multab ((r[0] >>> 24).setWidth 8) ∧
      n2 = r[16] ^^^ r[5] ^^^ (r[1] <<< 8) ^^^ c.multab ((r[1] >>> 24).setWidth 8) ∧
      n3 = n1 ^^^ r[6] ^^^ (r[2] <<< 8) ^^^ c.multab ((r[2] >>> 24).setWidth 8) ∧
      n4 = n2 ^^^ r[7] ^^^ (r[3] <<< 8) ^^^ c.multab ((r[3] >>> 24).setWidth 8) ∧
      n5 = n3 ^^^ r[8] ^^^ (r[4] <<< 8) ^^^ c.multab ((r[4] >>> 24).setWidth 8) ∧
      (generateRound c s r).1 =
        #v[r[5], r[6], r[7], r[8], r[9], r[10], r[11], r[12], r[13], r[14], r[15], r[16], n1, n2, n3, n4, n5] ∧
      ∃ x y : Five,
        x = pht5 { a := n1, b := r[14], c := r[7], d := r[2], e := r[1] } ∧
        y = pht5 { a := s x.a .r0, b := s x.b .r8, c := s x.c .r16, d := s x.d .r24, e := s x.e .r0 } ∧
        (generateRound c s r).2 =
          { a := y.a + n2, b := y.b + r[16], c := y.c + r[12], d := y.d + r[5], e := y.e + r[4] }

/-- The batch with the printed table of constant slots computes the batch of R142: started with the physical array equal
to the register, it ends with them equal, and its 85 words are the batch's (R144, which the spec derives from R140 and
R116); and the printed rows are the ones of R144's rule. -/
def Obligations.UnrolledBatchEqualsBatch : Prop :=
  (∀ (c : Params) (s : Word → Rotation → Word) (p : Vector Word 17), unrolledBatch c s p = generateBatch c s p) ∧
  offsetTable = (List.range 17).map offsetRowAt

/-- Equivalence of the generators (R145, which the spec derives from R140, R142, R109): two instances constructed from
the same key and IV, one in `REF` or `TABLE`, one in `FAST`: 17m `ROUND` commands of the first and m `BATCH` commands of
the second leave the same concatenation of outputs and the same register. -/
def Obligations.BatchesEqualRounds : Prop :=
  ∀ (key iv : List Byte) (pad : Option Padding) (mode : Mode) (sA sB : State) (tA tB : Transform) (m : Nat),
    mode ≠ .fast → construct key iv pad mode sA = .next (.made tA) → construct key iv pad .fast sB = .next (.made tB) →
    ∃ ws uA uB, generateWith .round (17 * m) tA.block = .next (ws, uA) ∧
      generateWith .batch m tB.block = .next (ws, uB) ∧ ws.length = 85 * m ∧ uA.block.r = uB.block.r

/-! ## The assembler's forms -/

/-- R77: the port accesses the statement forms stand for, written out. -/
def Obligations.StatementFormsExpand : Prop :=
  (∀ (idx : PortIndex) (v : Word), expand (.wr idx v) = [.write idx v]) ∧
  (∀ idx : PortIndex, expand (.rd idx) = [.read idx]) ∧
  expand .nop = [.write 0x00 0x00000000] ∧
  (∀ len, len < 256 →
    expand (.setkey len .ref) = [.write 0x00 (0x01000000 + (BitVec.ofNat 32 len <<< 16) + (0#32 <<< 8))] ∧
    expand (.setkey len .table) = [.write 0x00 (0x01000000 + (BitVec.ofNat 32 len <<< 16) + (1#32 <<< 8))] ∧
    expand (.setkey len .fast) = [.write 0x00 (0x01000000 + (BitVec.ofNat 32 len <<< 16) + (2#32 <<< 8))] ∧
    expand (.setiv len) = [.write 0x00 (0x02000000 + (BitVec.ofNat 32 len <<< 16))]) ∧
  expand .round = [.write 0x00 0x03000000] ∧ expand .batch = [.write 0x00 0x04000000] ∧
  expand .zeroize = [.write 0x00 0x05000000]

/-- R78: what the pseudo-instructions do when their accesses are issued. The writes of `ldkey` and `ldiv` put the words of
the byte string, packed big-endian, into `DIN[0..n/4-1]` and change nothing else; the whole of `ldkey` is then `SETKEY` of
that length and mode, the whole of `ldiv` is `SETIV` of that length; `rdks n` returns `DOUT[0..n-1]` in order and `status`
returns `STATUS`, and both change nothing of the block. (`replies`, the words returned, is the model's choice, log
entry 1.) -/
def Obligations.DinWritesLoadPackedBytes : Prop :=
  (∀ (bytes : List Byte) (s : State), bytes.length % 4 = 0 → bytes.length ≤ 48 →
    ∃ t, accessAll (dinEvents 0 (packWords bytes)) s = .next t ∧
      (∀ (i : Fin 12) (p : Fin 4), 4 * i.val < bytes.length →
        bytes[4 * i.val + p.val]? = some (byteAt t.block.din[i] p)) ∧
      (∀ i : Fin 12, bytes.length ≤ 4 * i.val → t.block.din[i] = s.block.din[i]) ∧
      t = { s with block := { s.block with din := t.block.din } } ∧
      accessAll (expand (.ldkey .ref bytes)) s = exec (.setkeyRef bytes.length) t ∧
      accessAll (expand (.ldkey .table bytes)) s = exec (.setkeyTable bytes.length) t ∧
      accessAll (expand (.ldkey .fast bytes)) s = exec (.setkeyFast bytes.length) t ∧
      accessAll (expand (.ldiv bytes)) s = exec (.setiv bytes.length) t) ∧
  (∀ (n : Nat) (s : State), 1 ≤ n → n ≤ 85 →
    accessAll (expand (.rdks n)) s = .next { s with replies := s.replies ++ s.block.dout.toList.take n }) ∧
  (∀ s : State, accessAll (expand .status) s = .next { s with replies := s.replies ++ [statusWord s.block] })

/-! ## The host layer -/

/-- R157, R166: a construction with padding `None` fails before touching the block; otherwise it fails on an unacceptable
key, then on an unacceptable IV or combined length, with the block left zeroized; and else it makes a transform with an
empty queue over a running block in the chosen mode. (What the host passes for a length above 255 is the model's choice,
log entry 5.) -/
def Obligations.ConstructOutcomes : Prop :=
  (∀ (key iv : List Byte) (mode : Mode) (s : State), construct key iv none mode s = .next (.failed .padding s)) ∧
  (∀ (key iv : List Byte) (pad : Padding) (mode : Mode) (s : State), ¬ keyAccepted key →
    construct key iv (some pad) mode s = .next (.failed .key { s with block := Block.reset })) ∧
  (∀ (key iv : List Byte) (pad : Padding) (mode : Mode) (s : State), keyAccepted key → ¬ ivAccepted Config.params key iv →
    construct key iv (some pad) mode s = .next (.failed .iv { s with block := Block.reset })) ∧
  (∀ (key iv : List Byte) (pad : Padding) (mode : Mode) (s : State), keyAccepted key → ivAccepted Config.params key iv →
    ∃ t, construct key iv (some pad) mode s = .next (.made t) ∧ t.queue = [] ∧ t.pad = pad ∧
      t.block.block.phase = .running ∧ t.block.block.mode = mode ∧ t.block.block.kw.val = key.length / 4 ∧
      t.block.block.fault = false ∧ t.block.block.err = .none)

/-- The keystream: whatever the mode, the first `n` bytes a constructed transform draws are `KS[0..n-1]` of its key and IV
(R146, R158), so the three variants produce the same keystream (R10). It rests on R128's general-knowledge lines only
through `ivLoad` (log entry 3). -/
def Obligations.TransformDrawsKeystream : Prop :=
  ∀ (key iv : List Byte) (pad : Option Padding) (mode : Mode) (s : State) (t : Transform) (n : Nat),
    construct key iv pad mode s = .next (.made t) →
    ∃ t', nextBytes n t =
      .next ((List.range n).map (keystream Config.params (packWords key) (packWords iv)), t')

/-- R158: `Next` draws the same bytes however the request is split: never dropped, duplicated or reordered. -/
def Obligations.NextBytesChunkIndependent : Prop :=
  ∀ (a b : Nat) (t t' : Transform) (xs : List Byte), nextBytes (a + b) t = .next (xs, t') →
    ∃ t1, nextBytes a t = .next (xs.take a, t1) ∧ nextBytes b t1 = .next (xs.drop a, t') ∧ xs.length = a + b

/-- R159: a call outside the ranges fails with a range error and does nothing; a call inside them writes exactly
`inputCount` bytes, input XOR the next keystream bytes, and leaves every other output byte alone. -/
def Obligations.TransformWritesExactly : Prop :=
  (∀ (input output : List Byte) (inOff inCount outOff : Int) (t : Transform),
    (inOff < 0 ∨ inCount < 0 ∨ outOff < 0 ∨ (input.length : Int) < inOff + inCount ∨
      (output.length : Int) < outOff + inCount ∨ inCount % 20 ≠ 0) →
    transform input inOff inCount output outOff t = .next (.error .range)) ∧
  (∀ (input output : List Byte) (inOff n outOff : Nat) (t t' : Transform) (ks : List Byte),
    inOff + n ≤ input.length → outOff + n ≤ output.length → n % 20 = 0 → nextBytes n t = .next (ks, t') →
    ∃ r, transform input inOff n output outOff t = .next (.ok r) ∧ r.written = n ∧ r.transform = t' ∧
      r.output.length = output.length ∧
      (∀ i, i < n → r.output[outOff + i]? = some (input.getD (inOff + i) 0 ^^^ ks.getD i 0)) ∧
      (∀ i, i < outOff ∨ outOff + n ≤ i → r.output[i]? = output[i]?))

/-- R160: encryption and decryption are the same call: transforming the output of one transform with another in the same
state returns the input. -/
def Obligations.TransformTwiceReturnsInput : Prop :=
  ∀ (xs out out' : List Byte) (t : Transform) (r r' : TransformResult),
    out.length = xs.length → out'.length = xs.length →
    transform xs 0 xs.length out 0 t = .next (.ok r) → transform r.output 0 xs.length out' 0 t = .next (.ok r') →
    r'.output = xs ∧ r'.transform = r.transform

/-- R161: two requests in order give the same bytes as one request for the whole (the spec derives it from R158 and
R159). -/
def Obligations.TransformChunkIndependent : Prop :=
  ∀ (xs ys : List Byte) (t : Transform) (r1 r2 r : TransformResult),
    transform xs 0 xs.length xs 0 t = .next (.ok r1) →
    transform ys 0 ys.length ys 0 r1.transform = .next (.ok r2) →
    transform (xs ++ ys) 0 (xs ++ ys).length (xs ++ ys) 0 t = .next (.ok r) →
    r.output = r1.output ++ r2.output ∧ r.transform = r2.transform

/-- R162 to R165: a call outside the ranges (a negative offset or count, a count above 20, a slice that ends beyond the
input) fails with a range error and does nothing. Inside them the final block is 20 bytes, the real bytes and then
`20 - inputCount` padding bytes: each of that value under `Pkcs7`, each 0 under the three other schemes; the result is
that block XORed with the next 20 keystream bytes. -/
def Obligations.TransformFinalPadsAndEncrypts : Prop :=
  (∀ (input : List Byte) (off n : Int) (t : Transform),
    (off < 0 ∨ n < 0 ∨ 20 < n ∨ (input.length : Int) < off + n) →
    transformFinal input off n t = .next (.error .range)) ∧
  (∀ (input : List Byte) (off n : Nat) (t t' : Transform) (ks : List Byte),
    n ≤ 20 → off + n ≤ input.length → nextBytes 20 t = .next (ks, t') →
    ∃ out, transformFinal input off n t = .next (.ok (out, t')) ∧ out.length = 20 ∧
      (∀ i, i < n → out[i]? = some (input.getD (off + i) 0 ^^^ ks.getD i 0)) ∧
      (∀ i, n ≤ i → i < 20 → out[i]? = some ((if t.pad = .pkcs7 then BitVec.ofNat 8 (20 - n) else 0) ^^^ ks.getD i 0)))

/-- R164: padding `N` short bytes under `Pkcs7` and unpadding recovers them (the unpad rule is general knowledge the spec
adopts). -/
def Obligations.Pkcs7PadUnpadRoundTrip : Prop :=
  ∀ bytes : List Byte, bytes.length < 20 → pkcs7Unpad (finalBlock .pkcs7 bytes) = some bytes

/-! ## The pseudo-instructions -/

/-- R78: the port accesses the pseudo-instructions stand for, written out: one write of each packed word, from `DIN[0]` on,
and then the command's word; a read of each `DOUT` cell; a read of `STATUS`. -/
def Obligations.PseudoInstructionsExpand : Prop :=
  (∀ bytes : List Byte, bytes.length % 4 = 0 → bytes.length ≤ 48 →
    ∃ ws : List HostEvent, ws.length = bytes.length / 4 ∧
      (∀ i, i < bytes.length / 4 →
        ws[i]? = some (.write (0x10 + BitVec.ofNat 8 i) (b2w (bytes.getD (4 * i) 0) (bytes.getD (4 * i + 1) 0)
          (bytes.getD (4 * i + 2) 0) (bytes.getD (4 * i + 3) 0)))) ∧
      expand (.ldkey .ref bytes) =
        ws ++ [.write 0x00 (0x01000000 + (BitVec.ofNat 32 bytes.length <<< 16) + (0#32 <<< 8))] ∧
      expand (.ldkey .table bytes) =
        ws ++ [.write 0x00 (0x01000000 + (BitVec.ofNat 32 bytes.length <<< 16) + (1#32 <<< 8))] ∧
      expand (.ldkey .fast bytes) =
        ws ++ [.write 0x00 (0x01000000 + (BitVec.ofNat 32 bytes.length <<< 16) + (2#32 <<< 8))] ∧
      expand (.ldiv bytes) = ws ++ [.write 0x00 (0x02000000 + (BitVec.ofNat 32 bytes.length <<< 16))]) ∧
  (∀ n, 1 ≤ n → n ≤ 85 → (expand (.rdks n)).length = n ∧
    ∀ i, i < n → (expand (.rdks n))[i]? = some (.read (0x80 + BitVec.ofNat 8 i))) ∧
  expand .status = [.read 0x01]
end

