-- ==== Sys2Proof/Laws/State.lean ====
section
/-!
SUPPORT. One lemma per field of the block per update, so that no proof unfolds a record update.
-/

namespace Sys2Proof.Machine

/-! ### `raiseErr`: writes `ERR` and `FAULT` only -/

@[simp] theorem raiseErr_r (code : ErrCode) (b : Block) : (raiseErr code b).r = b.r := rfl
@[simp] theorem raiseErr_k (code : ErrCode) (b : Block) : (raiseErr code b).k = b.k := rfl
@[simp] theorem raiseErr_kw (code : ErrCode) (b : Block) : (raiseErr code b).kw = b.kw := rfl
@[simp] theorem raiseErr_t (code : ErrCode) (b : Block) : (raiseErr code b).t = b.t := rfl
@[simp] theorem raiseErr_din (code : ErrCode) (b : Block) : (raiseErr code b).din = b.din := rfl
@[simp] theorem raiseErr_dout (code : ErrCode) (b : Block) : (raiseErr code b).dout = b.dout := rfl
@[simp] theorem raiseErr_ocnt (code : ErrCode) (b : Block) : (raiseErr code b).ocnt = b.ocnt := rfl
@[simp] theorem raiseErr_phase (code : ErrCode) (b : Block) : (raiseErr code b).phase = b.phase := rfl
@[simp] theorem raiseErr_mode (code : ErrCode) (b : Block) : (raiseErr code b).mode = b.mode := rfl
@[simp] theorem raiseErr_err (code : ErrCode) (b : Block) : (raiseErr code b).err = code := rfl
@[simp] theorem raiseErr_fault (code : ErrCode) (b : Block) : (raiseErr code b).fault = true := rfl

/-! ### `succeed`: writes `ERR` only -/

@[simp] theorem succeed_r (b : Block) : (succeed b).r = b.r := rfl
@[simp] theorem succeed_k (b : Block) : (succeed b).k = b.k := rfl
@[simp] theorem succeed_kw (b : Block) : (succeed b).kw = b.kw := rfl
@[simp] theorem succeed_t (b : Block) : (succeed b).t = b.t := rfl
@[simp] theorem succeed_din (b : Block) : (succeed b).din = b.din := rfl
@[simp] theorem succeed_dout (b : Block) : (succeed b).dout = b.dout := rfl
@[simp] theorem succeed_ocnt (b : Block) : (succeed b).ocnt = b.ocnt := rfl
@[simp] theorem succeed_phase (b : Block) : (succeed b).phase = b.phase := rfl
@[simp] theorem succeed_mode (b : Block) : (succeed b).mode = b.mode := rfl
@[simp] theorem succeed_err (b : Block) : (succeed b).err = .none := rfl
@[simp] theorem succeed_fault (b : Block) : (succeed b).fault = b.fault := rfl

/-! ### `writeDin`: writes one cell of `DIN` -/

@[simp] theorem writeDin_r (i : Fin 12) (v : Word) (b : Block) : (writeDin i v b).r = b.r := rfl
@[simp] theorem writeDin_k (i : Fin 12) (v : Word) (b : Block) : (writeDin i v b).k = b.k := rfl
@[simp] theorem writeDin_kw (i : Fin 12) (v : Word) (b : Block) : (writeDin i v b).kw = b.kw := rfl
@[simp] theorem writeDin_t (i : Fin 12) (v : Word) (b : Block) : (writeDin i v b).t = b.t := rfl
@[simp] theorem writeDin_din (i : Fin 12) (v : Word) (b : Block) : (writeDin i v b).din = b.din.set i v := rfl
@[simp] theorem writeDin_dout (i : Fin 12) (v : Word) (b : Block) : (writeDin i v b).dout = b.dout := rfl
@[simp] theorem writeDin_ocnt (i : Fin 12) (v : Word) (b : Block) : (writeDin i v b).ocnt = b.ocnt := rfl
@[simp] theorem writeDin_phase (i : Fin 12) (v : Word) (b : Block) : (writeDin i v b).phase = b.phase := rfl
@[simp] theorem writeDin_mode (i : Fin 12) (v : Word) (b : Block) : (writeDin i v b).mode = b.mode := rfl
@[simp] theorem writeDin_err (i : Fin 12) (v : Word) (b : Block) : (writeDin i v b).err = b.err := rfl
@[simp] theorem writeDin_fault (i : Fin 12) (v : Word) (b : Block) : (writeDin i v b).fault = b.fault := rfl

/-! ### `clearDin`: writes `DIN` only -/

@[simp] theorem clearDin_r (b : Block) : (clearDin b).r = b.r := rfl
@[simp] theorem clearDin_k (b : Block) : (clearDin b).k = b.k := rfl
@[simp] theorem clearDin_kw (b : Block) : (clearDin b).kw = b.kw := rfl
@[simp] theorem clearDin_t (b : Block) : (clearDin b).t = b.t := rfl
@[simp] theorem clearDin_din (b : Block) : (clearDin b).din = Vector.replicate 12 0 := rfl
@[simp] theorem clearDin_dout (b : Block) : (clearDin b).dout = b.dout := rfl
@[simp] theorem clearDin_ocnt (b : Block) : (clearDin b).ocnt = b.ocnt := rfl
@[simp] theorem clearDin_phase (b : Block) : (clearDin b).phase = b.phase := rfl
@[simp] theorem clearDin_mode (b : Block) : (clearDin b).mode = b.mode := rfl
@[simp] theorem clearDin_err (b : Block) : (clearDin b).err = b.err := rfl
@[simp] theorem clearDin_fault (b : Block) : (clearDin b).fault = b.fault := rfl

/-! ### `storeRound`: writes `DOUT[0..4]` and `OCNT` -/

@[simp] theorem storeRound_r (v : Five) (b : Block) : (storeRound v b).r = b.r := rfl
@[simp] theorem storeRound_k (v : Five) (b : Block) : (storeRound v b).k = b.k := rfl
@[simp] theorem storeRound_kw (v : Five) (b : Block) : (storeRound v b).kw = b.kw := rfl
@[simp] theorem storeRound_t (v : Five) (b : Block) : (storeRound v b).t = b.t := rfl
@[simp] theorem storeRound_din (v : Five) (b : Block) : (storeRound v b).din = b.din := rfl
@[simp] theorem storeRound_dout (v : Five) (b : Block) :
    (storeRound v b).dout = ((((b.dout.set 0 v.a).set 1 v.b).set 2 v.c).set 3 v.d).set 4 v.e := rfl
@[simp] theorem storeRound_ocnt (v : Five) (b : Block) : (storeRound v b).ocnt = 5 := rfl
@[simp] theorem storeRound_phase (v : Five) (b : Block) : (storeRound v b).phase = b.phase := rfl
@[simp] theorem storeRound_mode (v : Five) (b : Block) : (storeRound v b).mode = b.mode := rfl
@[simp] theorem storeRound_err (v : Five) (b : Block) : (storeRound v b).err = b.err := rfl
@[simp] theorem storeRound_fault (v : Five) (b : Block) : (storeRound v b).fault = b.fault := rfl

/-! ### `storeBatch`: writes `DOUT` and `OCNT` -/

@[simp] theorem storeBatch_r (o : List Word) (b : Block) : (storeBatch o b).r = b.r := by simp only [storeBatch]
@[simp] theorem storeBatch_k (o : List Word) (b : Block) : (storeBatch o b).k = b.k := by simp only [storeBatch]
@[simp] theorem storeBatch_kw (o : List Word) (b : Block) : (storeBatch o b).kw = b.kw := by simp only [storeBatch]
@[simp] theorem storeBatch_t (o : List Word) (b : Block) : (storeBatch o b).t = b.t := by simp only [storeBatch]
@[simp] theorem storeBatch_din (o : List Word) (b : Block) :
    (storeBatch o b).din = b.din := by simp only [storeBatch]
@[simp] theorem storeBatch_dout (o : List Word) (b : Block) :
    (storeBatch o b).dout = toVector 85 o := by simp only [storeBatch]
@[simp] theorem storeBatch_ocnt (o : List Word) (b : Block) :
    (storeBatch o b).ocnt = 85 := by simp only [storeBatch]
@[simp] theorem storeBatch_phase (o : List Word) (b : Block) :
    (storeBatch o b).phase = b.phase := by simp only [storeBatch]
@[simp] theorem storeBatch_mode (o : List Word) (b : Block) :
    (storeBatch o b).mode = b.mode := by simp only [storeBatch]
@[simp] theorem storeBatch_err (o : List Word) (b : Block) :
    (storeBatch o b).err = b.err := by simp only [storeBatch]
@[simp] theorem storeBatch_fault (o : List Word) (b : Block) :
    (storeBatch o b).fault = b.fault := by simp only [storeBatch]

/-! ### `loadKey`: the effect of a successful `SETKEY` -/

@[simp] theorem loadKey_r (c : Params) (m : Mode) (len : Nat) (b : Block) :
    (loadKey c m len b).r = b.r := by simp only [loadKey, clearDin]
@[simp] theorem loadKey_k (c : Params) (m : Mode) (len : Nat) (b : Block) :
    (loadKey c m len b).k =
      toVector 8 (keySchedule c (dinWords (wordCount len) b)) := by simp only [loadKey, clearDin]
@[simp] theorem loadKey_kw (c : Params) (m : Mode) (len : Nat) (b : Block) :
    (loadKey c m len b).kw = Fin.ofNat 9 (wordCount len) := by simp only [loadKey, clearDin]
@[simp] theorem loadKey_t (c : Params) (m : Mode) (len : Nat) (b : Block) :
    (loadKey c m len b).t =
      keyTables c m (keySchedule c (dinWords (wordCount len) b)) b.t := by simp only [loadKey, clearDin]
@[simp] theorem loadKey_din (c : Params) (m : Mode) (len : Nat) (b : Block) :
    (loadKey c m len b).din = Vector.replicate 12 0 := by simp only [loadKey, clearDin]
@[simp] theorem loadKey_dout (c : Params) (m : Mode) (len : Nat) (b : Block) :
    (loadKey c m len b).dout = b.dout := by simp only [loadKey, clearDin]
@[simp] theorem loadKey_ocnt (c : Params) (m : Mode) (len : Nat) (b : Block) :
    (loadKey c m len b).ocnt = b.ocnt := by simp only [loadKey, clearDin]
@[simp] theorem loadKey_phase (c : Params) (m : Mode) (len : Nat) (b : Block) :
    (loadKey c m len b).phase = .keyed := by simp only [loadKey, clearDin]
@[simp] theorem loadKey_mode (c : Params) (m : Mode) (len : Nat) (b : Block) :
    (loadKey c m len b).mode = m := by simp only [loadKey, clearDin]
@[simp] theorem loadKey_err (c : Params) (m : Mode) (len : Nat) (b : Block) :
    (loadKey c m len b).err = b.err := by simp only [loadKey, clearDin]
@[simp] theorem loadKey_fault (c : Params) (m : Mode) (len : Nat) (b : Block) :
    (loadKey c m len b).fault = b.fault := by simp only [loadKey, clearDin]

/-! ### `loadIv`: the effect of a successful `SETIV` -/

@[simp] theorem loadIv_r (c : Params) (len : Nat) (b : Block) :
    (loadIv c len b).r =
      ivLoad c (keyedOf c b) (keyWords b) (dinWords (wordCount len) b) := by simp only [loadIv, clearDin]
@[simp] theorem loadIv_k (c : Params) (len : Nat) (b : Block) :
    (loadIv c len b).k = b.k := by simp only [loadIv, clearDin]
@[simp] theorem loadIv_kw (c : Params) (len : Nat) (b : Block) :
    (loadIv c len b).kw = b.kw := by simp only [loadIv, clearDin]
@[simp] theorem loadIv_t (c : Params) (len : Nat) (b : Block) :
    (loadIv c len b).t = b.t := by simp only [loadIv, clearDin]
@[simp] theorem loadIv_din (c : Params) (len : Nat) (b : Block) :
    (loadIv c len b).din = Vector.replicate 12 0 := by simp only [loadIv, clearDin]
@[simp] theorem loadIv_dout (c : Params) (len : Nat) (b : Block) :
    (loadIv c len b).dout = b.dout := by simp only [loadIv, clearDin]
@[simp] theorem loadIv_ocnt (c : Params) (len : Nat) (b : Block) :
    (loadIv c len b).ocnt = b.ocnt := by simp only [loadIv, clearDin]
@[simp] theorem loadIv_phase (c : Params) (len : Nat) (b : Block) :
    (loadIv c len b).phase = .running := by simp only [loadIv, clearDin]
@[simp] theorem loadIv_mode (c : Params) (len : Nat) (b : Block) :
    (loadIv c len b).mode = b.mode := by simp only [loadIv, clearDin]
@[simp] theorem loadIv_err (c : Params) (len : Nat) (b : Block) :
    (loadIv c len b).err = b.err := by simp only [loadIv, clearDin]
@[simp] theorem loadIv_fault (c : Params) (len : Nat) (b : Block) :
    (loadIv c len b).fault = b.fault := by simp only [loadIv, clearDin]

/-! ### `runRound`: the effect of a successful `ROUND` -/

@[simp] theorem runRound_r (c : Params) (b : Block) :
    (runRound c b).r = (generateRound c (keyedOf c b) b.r).1 := by simp only [runRound, storeRound]
@[simp] theorem runRound_k (c : Params) (b : Block) : (runRound c b).k = b.k := by simp only [runRound, storeRound]
@[simp] theorem runRound_kw (c : Params) (b : Block) :
    (runRound c b).kw = b.kw := by simp only [runRound, storeRound]
@[simp] theorem runRound_t (c : Params) (b : Block) : (runRound c b).t = b.t := by simp only [runRound, storeRound]
@[simp] theorem runRound_din (c : Params) (b : Block) :
    (runRound c b).din = b.din := by simp only [runRound, storeRound]
@[simp] theorem runRound_dout (c : Params) (b : Block) :
    (runRound c b).dout =
      (storeRound (generateRound c (keyedOf c b) b.r).2 b).dout := by simp only [runRound, storeRound]
@[simp] theorem runRound_ocnt (c : Params) (b : Block) :
    (runRound c b).ocnt = 5 := by simp only [runRound, storeRound]
@[simp] theorem runRound_phase (c : Params) (b : Block) :
    (runRound c b).phase = b.phase := by simp only [runRound, storeRound]
@[simp] theorem runRound_mode (c : Params) (b : Block) :
    (runRound c b).mode = b.mode := by simp only [runRound, storeRound]
@[simp] theorem runRound_err (c : Params) (b : Block) :
    (runRound c b).err = b.err := by simp only [runRound, storeRound]
@[simp] theorem runRound_fault (c : Params) (b : Block) :
    (runRound c b).fault = b.fault := by simp only [runRound, storeRound]

/-! ### `runBatch`: the effect of a successful `BATCH` -/

@[simp] theorem runBatch_r (c : Params) (b : Block) :
    (runBatch c b).r = (generateBatch c (keyedOf c b) b.r).1 := by simp only [runBatch, storeBatch]
@[simp] theorem runBatch_k (c : Params) (b : Block) : (runBatch c b).k = b.k := by simp only [runBatch, storeBatch]
@[simp] theorem runBatch_kw (c : Params) (b : Block) :
    (runBatch c b).kw = b.kw := by simp only [runBatch, storeBatch]
@[simp] theorem runBatch_t (c : Params) (b : Block) : (runBatch c b).t = b.t := by simp only [runBatch, storeBatch]
@[simp] theorem runBatch_din (c : Params) (b : Block) :
    (runBatch c b).din = b.din := by simp only [runBatch, storeBatch]
@[simp] theorem runBatch_dout (c : Params) (b : Block) :
    (runBatch c b).dout = toVector 85 (generateBatch c (keyedOf c b) b.r).2 := by simp only [runBatch, storeBatch]
@[simp] theorem runBatch_ocnt (c : Params) (b : Block) :
    (runBatch c b).ocnt = 85 := by simp only [runBatch, storeBatch]
@[simp] theorem runBatch_phase (c : Params) (b : Block) :
    (runBatch c b).phase = b.phase := by simp only [runBatch, storeBatch]
@[simp] theorem runBatch_mode (c : Params) (b : Block) :
    (runBatch c b).mode = b.mode := by simp only [runBatch, storeBatch]
@[simp] theorem runBatch_err (c : Params) (b : Block) :
    (runBatch c b).err = b.err := by simp only [runBatch, storeBatch]
@[simp] theorem runBatch_fault (c : Params) (b : Block) :
    (runBatch c b).fault = b.fault := by simp only [runBatch, storeBatch]

/-! ### `zeroizeCommand`, `mapBlock`, `State.withFetchWord` -/

@[simp] theorem zeroizeCommand_eq (b : Block) : zeroizeCommand b = Block.reset := rfl
@[simp] theorem mapBlock_block (f : Block → Block) (s : State) : (mapBlock f s).block = f s.block := rfl
@[simp] theorem mapBlock_pending (f : Block → Block) (s : State) : (mapBlock f s).pending = s.pending := rfl
@[simp] theorem mapBlock_replies (f : Block → Block) (s : State) : (mapBlock f s).replies = s.replies := rfl
@[simp] theorem withFetchWord_block (s : State) (n w : Nat) : (s.withFetchWord n w).block = s.block := rfl
@[simp] theorem withFetchWord_pending (s : State) (n w : Nat) :
    (s.withFetchWord n w).pending = commandWrite n w :: s.pending := rfl
@[simp] theorem withFetchWord_replies (s : State) (n w : Nat) : (s.withFetchWord n w).replies = s.replies := rfl

/-- The reset values, one field each (10_state R37). -/
@[simp] theorem blockReset_r : Block.reset.r = Vector.replicate 17 0 := rfl
@[simp] theorem blockReset_k : Block.reset.k = Vector.replicate 8 0 := rfl
@[simp] theorem blockReset_kw : Block.reset.kw = 0 := rfl
@[simp] theorem blockReset_t : Block.reset.t = Vector.replicate 4 (Vector.replicate 256 0) := rfl
@[simp] theorem blockReset_din : Block.reset.din = Vector.replicate 12 0 := rfl
@[simp] theorem blockReset_dout : Block.reset.dout = Vector.replicate 85 0 := rfl
@[simp] theorem blockReset_ocnt : Block.reset.ocnt = 0 := rfl
@[simp] theorem blockReset_phase : Block.reset.phase = .empty := rfl
@[simp] theorem blockReset_mode : Block.reset.mode = .ref := rfl
@[simp] theorem blockReset_err : Block.reset.err = .none := rfl
@[simp] theorem blockReset_fault : Block.reset.fault = false := rfl

end Sys2Proof.Machine
end

