-- ==== Sys2Proof/Laws/Commands.lean ====
section
/-!
SUPPORT. What each command can do, said once: the cases of the four checked commands, `exec` as one change of the
block, and the cases of a port access and of a step. Provers cite these instead of unfolding the meanings.
-/

namespace Sys2Proof.Machine

theorem keyLenLegal_iff (len : Nat) : keyLenLegal len = true ↔ 4 ≤ len ∧ len ≤ 32 ∧ len % 4 = 0 := by
  simp [keyLenLegal, and_assoc]

theorem ivLenLegal_iff (c : Params) (len : Nat) :
    ivLenLegal c len = true ↔ len % 4 = 0 ∧ c.ivMin.bytes ≤ len := by
  simp [ivLenLegal]

theorem kivLenLegal_iff (kw len : Nat) : kivLenLegal kw len = true ↔ len + 4 * kw ≤ 48 := by
  simp [kivLenLegal]

/-- Everything `SETKEY` can do. -/
theorem setkeyCommand_cases (c : Params) (m : Mode) (len : Nat) (b : Block) :
    (b.phase ≠ .empty ∧ setkeyCommand c m len b = raiseErr .state b) ∨
    (b.phase = .empty ∧ keyLenLegal len = false ∧ setkeyCommand c m len b = raiseErr .keyLen b) ∨
    (b.phase = .empty ∧ keyLenLegal len = true ∧ setkeyCommand c m len b = succeed (loadKey c m len b)) := by
  by_cases hp : b.phase = .empty <;> cases hl : keyLenLegal len <;> simp [setkeyCommand, hp, hl]

/-- Everything `SETIV` can do. -/
theorem setivCommand_cases (c : Params) (len : Nat) (b : Block) :
    (b.phase ≠ .keyed ∧ setivCommand c len b = raiseErr .state b) ∨
    (b.phase = .keyed ∧ ivLenLegal c len = false ∧ setivCommand c len b = raiseErr .ivLen b) ∨
    (b.phase = .keyed ∧ ivLenLegal c len = true ∧ kivLenLegal b.kw.val len = false ∧
      setivCommand c len b = raiseErr .kivLen b) ∨
    (b.phase = .keyed ∧ ivLenLegal c len = true ∧ kivLenLegal b.kw.val len = true ∧
      setivCommand c len b = succeed (loadIv c len b)) := by
  by_cases hp : b.phase = .keyed <;> cases hl : ivLenLegal c len <;> cases hk : kivLenLegal b.kw.val len <;>
    simp [setivCommand, hp, hl, hk]

/-- Everything `ROUND` can do. -/
theorem roundCommand_cases (c : Params) (b : Block) :
    (b.phase ≠ .running ∧ roundCommand c b = raiseErr .state b) ∨
    (b.phase = .running ∧ b.mode = .fast ∧ roundCommand c b = raiseErr .mode b) ∨
    (b.phase = .running ∧ b.mode ≠ .fast ∧ roundCommand c b = succeed (runRound c b)) := by
  by_cases hp : b.phase = .running <;> by_cases hm : b.mode = .fast <;> simp [roundCommand, hp, hm]

/-- Everything `BATCH` can do. -/
theorem batchCommand_cases (c : Params) (b : Block) :
    (b.phase ≠ .running ∧ batchCommand c b = raiseErr .state b) ∨
    (b.phase = .running ∧ b.mode ≠ .fast ∧ batchCommand c b = raiseErr .mode b) ∨
    (b.phase = .running ∧ b.mode = .fast ∧ batchCommand c b = succeed (runBatch c b)) := by
  by_cases hp : b.phase = .running <;> by_cases hm : b.mode = .fast <;> simp [batchCommand, hp, hm]

/-- What an instruction does to the block. -/
def instrEffect (c : Params) : Instr → Block → Block
  | .nop => succeed
  | .setkeyRef len => setkeyCommand c .ref len
  | .setkeyTable len => setkeyCommand c .table len
  | .setkeyFast len => setkeyCommand c .fast len
  | .setiv len => setivCommand c len
  | .round => roundCommand c
  | .batch => batchCommand c
  | .zeroize => zeroizeCommand

/-- Every instruction answers a next state, with the block alone changed. -/
theorem exec_eq (i : Instr) (s : State) : exec i s = .next (mapBlock (instrEffect Config.params i) s) := by
  cases i <;> rfl

/-- The four shapes of what an instruction does to the block: a failure, the reset values, a plain success, and one of
the four effects. -/
theorem instrEffect_cases (c : Params) (i : Instr) (b : Block) :
    (∃ code, code ≠ .none ∧ code ≠ .opcode ∧ code ≠ .addr ∧ instrEffect c i b = raiseErr code b) ∨
    (i = .zeroize ∧ instrEffect c i b = Block.reset) ∨
    (i = .nop ∧ instrEffect c i b = succeed b) ∨
    (∃ m len, (i = .setkeyRef len ∨ i = .setkeyTable len ∨ i = .setkeyFast len) ∧ b.phase = .empty ∧
      keyLenLegal len = true ∧ instrEffect c i b = succeed (loadKey c m len b)) ∨
    (∃ len, i = .setiv len ∧ b.phase = .keyed ∧ ivLenLegal c len = true ∧ kivLenLegal b.kw.val len = true ∧
      instrEffect c i b = succeed (loadIv c len b)) ∨
    (i = .round ∧ b.phase = .running ∧ b.mode ≠ .fast ∧ instrEffect c i b = succeed (runRound c b)) ∨
    (i = .batch ∧ b.phase = .running ∧ b.mode = .fast ∧ instrEffect c i b = succeed (runBatch c b)) := by
  have key : ∀ m len, (∃ code, code ≠ .none ∧ code ≠ .opcode ∧ code ≠ .addr ∧
      setkeyCommand c m len b = raiseErr code b) ∨
      (b.phase = .empty ∧ keyLenLegal len = true ∧ setkeyCommand c m len b = succeed (loadKey c m len b)) := by
    intro m len
    rcases setkeyCommand_cases c m len b with ⟨-, h⟩ | ⟨-, -, h⟩ | h
    · exact .inl ⟨_, by decide, by decide, by decide, h⟩
    · exact .inl ⟨_, by decide, by decide, by decide, h⟩
    · exact .inr h
  cases i with
  | nop => exact .inr (.inr (.inl ⟨rfl, rfl⟩))
  | zeroize => exact .inr (.inl ⟨rfl, rfl⟩)
  | setkeyRef len =>
    rcases key .ref len with h | h
    · exact .inl h
    · exact .inr (.inr (.inr (.inl ⟨_, _, .inl rfl, h⟩)))
  | setkeyTable len =>
    rcases key .table len with h | h
    · exact .inl h
    · exact .inr (.inr (.inr (.inl ⟨_, _, .inr (.inl rfl), h⟩)))
  | setkeyFast len =>
    rcases key .fast len with h | h
    · exact .inl h
    · exact .inr (.inr (.inr (.inl ⟨_, _, .inr (.inr rfl), h⟩)))
  | setiv len =>
    rcases setivCommand_cases c len b with ⟨-, h⟩ | ⟨-, -, h⟩ | ⟨-, -, -, h⟩ | h
    · exact .inl ⟨_, by decide, by decide, by decide, h⟩
    · exact .inl ⟨_, by decide, by decide, by decide, h⟩
    · exact .inl ⟨_, by decide, by decide, by decide, h⟩
    · exact .inr (.inr (.inr (.inr (.inl ⟨_, rfl, h⟩))))
  | round =>
    rcases roundCommand_cases c b with ⟨-, h⟩ | ⟨-, -, h⟩ | h
    · exact .inl ⟨_, by decide, by decide, by decide, h⟩
    · exact .inl ⟨_, by decide, by decide, by decide, h⟩
    · exact .inr (.inr (.inr (.inr (.inr (.inl ⟨rfl, h⟩)))))
  | batch =>
    rcases batchCommand_cases c b with ⟨-, h⟩ | ⟨-, -, h⟩ | h
    · exact .inl ⟨_, by decide, by decide, by decide, h⟩
    · exact .inl ⟨_, by decide, by decide, by decide, h⟩
    · exact .inr (.inr (.inr (.inr (.inr (.inr ⟨rfl, h⟩)))))

/-- What a write of a word to `CMD` does to the block. -/
def executeEffect (c : Params) (v : Word) (b : Block) : Block :=
  match decode v with
  | .ok i => instrEffect c i b
  | .error _ => raiseErr .opcode b

/-- `Execute` answers a next state, with the block alone changed. -/
theorem execute_eq (v : Word) (s : State) : execute v s = .next (mapBlock (executeEffect Config.params v) s) := by
  unfold execute
  cases h : decode v with
  | ok i => simp [exec_eq, mapBlock, executeEffect, h]
  | error e => simp [mapBlock, executeEffect, h]

/-- What a port write does to the block. -/
def writeEffect (c : Params) (idx : PortIndex) (v : Word) (b : Block) : Block :=
  match portOf idx with
  | .cmd => executeEffect c v b
  | .status => b
  | .din i => writeDin i v b
  | .dout _ => b
  | .unmapped => raiseErr .addr b

/-- A port write answers a next state, with the block alone changed. -/
theorem portWrite_eq (idx : PortIndex) (v : Word) (s : State) :
    portWrite idx v s = .next (mapBlock (writeEffect Config.params idx v) s) := by
  unfold portWrite
  cases h : portOf idx <;> simp [execute_eq, mapBlock, writeEffect, h]

/-- What a host event does to the block. -/
def eventEffect (c : Params) (e : HostEvent) (b : Block) : Block :=
  match e with
  | .read idx => (portRead idx b).2
  | .write idx v => writeEffect c idx v b
  | .reset => Block.reset

/-- The word a host event returns to the host, if it is a read. -/
def eventReply (e : HostEvent) (b : Block) : List Word :=
  match e with
  | .read idx => [(portRead idx b).1]
  | .write _ _ => []
  | .reset => []

/-- A host event answers a next state: the block changed, a read's word recorded. -/
theorem access_eq (e : HostEvent) (s : State) :
    access e s = .next { s with
      block := eventEffect Config.params e s.block, replies := s.replies ++ eventReply e s.block } := by
  cases e with
  | read idx => rfl
  | write idx v => simp [access, portWrite_eq, mapBlock, eventEffect, eventReply]
  | reset => simp [access, eventEffect, eventReply]

/-- A step with nothing placed leaves the state as it is. -/
theorem step_idle (s : State) (h : s.pending = []) : step s = .next s := by
  simp [step, serve, h]

/-- A step serves the first placed access. -/
theorem step_access (s : State) (e : HostEvent) (es : List HostEvent) (h : s.pending = e :: es) :
    step s = .next {
      block := eventEffect Config.params e s.block, pending := es,
      replies := s.replies ++ eventReply e s.block } := by
  simp [step, serve, h, access_eq]

/-- Everything a step can do to the block. -/
theorem step_cases (s t : State) (h : step s = .next t) :
    t = s ∨ ∃ e es, s.pending = e :: es ∧ t.pending = es ∧ t.block = eventEffect Config.params e s.block := by
  cases hp : s.pending with
  | nil =>
    rw [step_idle s hp] at h
    exact .inl (by cases h; rfl)
  | cons e es =>
    rw [step_access s e es hp] at h
    exact .inr ⟨e, es, rfl, by cases h; rfl, by cases h; rfl⟩

/-- `CMD` is index 0x00 and no other. -/
theorem portOf_cmd_iff (idx : PortIndex) : portOf idx = .cmd ↔ idx = 0x00 := by
  rw [portOf, BitVec.toNat_eq]
  by_cases h : idx.toNat = 0x00
  · simp [h]
  · simp only [h, if_false]
    split
    · simp; omega
    · split
      · simp; omega
      · split <;> simp <;> omega

/-- Everything a host event can do to the block: nothing, one `DIN` cell, a failure, the reset values at the reset event,
or the effect of an instruction written to `CMD`. -/
theorem eventEffect_cases (c : Params) (e : HostEvent) (b : Block) :
    eventEffect c e b = b ∨
    (∃ i v, eventEffect c e b = writeDin i v b) ∨
    (∃ code, code ≠ .none ∧ eventEffect c e b = raiseErr code b) ∨
    (e = .reset ∧ eventEffect c e b = Block.reset) ∨
    (∃ v i, e = .write 0x00 v ∧ decode v = .ok i ∧ eventEffect c e b = instrEffect c i b) := by
  cases e with
  | read idx =>
    cases h : portOf idx <;> simp [eventEffect, portRead, h]
    exact .inr (.inr ⟨_, by decide, rfl⟩)
  | write idx v =>
    cases h : portOf idx with
    | cmd =>
      have h0 := (portOf_cmd_iff idx).1 h
      cases hd : decode v with
      | ok i =>
        exact .inr (.inr (.inr (.inr ⟨v, i, by rw [h0], hd, by simp [eventEffect, writeEffect, executeEffect, h, hd]⟩)))
      | error x =>
        exact .inr (.inr (.inl ⟨.opcode, by decide, by simp [eventEffect, writeEffect, executeEffect, h, hd]⟩))
    | status => exact .inl (by simp [eventEffect, writeEffect, h])
    | din i => exact .inr (.inl ⟨i, v, by simp [eventEffect, writeEffect, h]⟩)
    | dout i => exact .inl (by simp [eventEffect, writeEffect, h])
    | unmapped => exact .inr (.inr (.inl ⟨.addr, by decide, by simp [eventEffect, writeEffect, h]⟩))
  | reset => exact .inr (.inr (.inr (.inl ⟨rfl, rfl⟩)))

end Sys2Proof.Machine
end

