-- ==== Sys2Proof/Laws/Words.lean ====
section
/-!
SUPPORT. The bits of the word utilities (spec/40_word_utilities.md), and the entries of an array made of a sequence.
-/

namespace Sys2Proof.Machine

/-- Bit `i` of the byte at position `p`. -/
theorem byteAt_getLsbD (w : Word) (p : Fin 4) (i : Nat) :
    (byteAt w p).getLsbD i = (decide (i < 8) && w.getLsbD (24 - 8 * p.val + i)) := by
  have h : (0xFF : Word) = BitVec.ofNat 32 (2 ^ 8 - 1) := rfl
  simp only [byteAt, BitVec.getLsbD_setWidth, BitVec.getLsbD_and, BitVec.getLsbD_ushiftRight, h,
    BitVec.getLsbD_ofNat, Nat.testBit_two_pow_sub_one]
  by_cases hi : i < 8
  · have : i < 32 := by omega
    simp [hi, this]
  · simp [hi]

/-- Bit `i` of the mask of position `p`. -/
theorem lane_getLsbD (p : Fin 4) (i : Nat) :
    (lane p).getLsbD i = (decide (24 - 8 * p.val ≤ i) && decide (i < 32 - 8 * p.val)) := by
  have h : (0xFF : Word) = BitVec.ofNat 32 (2 ^ 8 - 1) := rfl
  simp only [lane, BitVec.getLsbD_shiftLeft, h, BitVec.getLsbD_ofNat, Nat.testBit_two_pow_sub_one]
  rw [Bool.eq_iff_iff]
  simp only [Bool.and_eq_true, Bool.not_eq_true', decide_eq_true_eq, decide_eq_false_iff_not]
  omega

/-- Bit `i` of a byte in lane `p`. -/
theorem put_getLsbD (b : Byte) (p : Fin 4) (i : Nat) :
    (put b p).getLsbD i = (decide (24 - 8 * p.val ≤ i) && b.getLsbD (i - (24 - 8 * p.val))) := by
  simp only [put, BitVec.getLsbD_shiftLeft, BitVec.getLsbD_setWidth]
  by_cases h1 : i < 32
  · by_cases h2 : i < 24 - 8 * p.val
    · have h4 : ¬ 24 - 8 * p.val ≤ i := by omega
      rw [decide_eq_true h2, decide_eq_false h4]
      simp
    · have h3 : i - (24 - 8 * p.val) < 32 := by omega
      have h4 : 24 - 8 * p.val ≤ i := by omega
      simp [h1, h2, h3, h4]
  · have h2 : ¬ i < 24 - 8 * p.val := by omega
    have h3 : 8 ≤ i - (24 - 8 * p.val) := by omega
    simp [h1, h2, BitVec.getLsbD_of_ge _ _ h3]

/-- The rotation of the spec is the library's. -/
theorem rotl_eq_rotateLeft (w : Word) (n : Nat) : rotl w n = w.rotateLeft n := by
  by_cases h : n % 32 = 0
  · have h0 : w >>> 32 = 0#32 := by
      apply BitVec.eq_of_getLsbD_eq
      intro i _
      simp [BitVec.getLsbD_of_ge]
    simp [rotl, BitVec.rotateLeft, BitVec.rotateLeftAux, h, h0]
  · simp [rotl, BitVec.rotateLeft, BitVec.rotateLeftAux, h]

/-- Entry `i` of an array made of a sequence. -/
@[simp] theorem toVector_getElem (n : Nat) (ws : List Word) (i : Nat) (h : i < n) :
    (toVector n ws)[i] = ws.getD i 0 := by
  simp [toVector]

/-- A packed word and the rest of the words. -/
@[simp] theorem packWords_cons (b0 b1 b2 b3 : Byte) (bs : List Byte) :
    packWords (b0 :: b1 :: b2 :: b3 :: bs) = b2w b0 b1 b2 b3 :: packWords bs := rfl

@[simp] theorem serialize_nil : serialize [] = [] := rfl

@[simp] theorem serialize_cons (w : Word) (ws : List Word) : serialize (w :: ws) = w2b w ++ serialize ws := rfl

@[simp] theorem w2b_length (w : Word) : (w2b w).length = 4 := rfl

end Sys2Proof.Machine
end

