-- ==== Sys2Proof/Tests/Slice0.lean ====
section
/-!
SUPPORT. The model's own tests. Every expected value stands in spec/95_test_vectors.md (its vectors V-W to V-D, under its
toy table configurations TOY-A and TOY-B) or in a rule's worked example; none is the model's own answer. After them, for
every statement with hypotheses, a `witness` theorem: a concrete state and operands that meet all of them together.
-/

namespace Sys2Proof.Tests

open Sys2Proof.Machine

/-! ## Well-formedness: an ill-formed term for each check, refused -/

theorem test_setkeyRef_len_refused : (Instr.setkeyRef 256).wellFormed = false := by decide
theorem test_setkeyTable_len_refused : (Instr.setkeyTable 256).wellFormed = false := by decide
theorem test_setkeyFast_len_refused : (Instr.setkeyFast 300).wellFormed = false := by decide
theorem test_setiv_len_refused : (Instr.setiv 256).wellFormed = false := by decide
theorem test_illegal_len_is_wellFormed : (Instr.setkeyRef 255).wellFormed = true := by decide

/-! ## Decoding: words written out from 30_encoding R72 and 95_test_vectors V-D -/

theorem test_decode_nop : decode 0x00000000 = .ok .nop := by rfl
theorem test_decode_setkeyRef : decode 0x01100000 = .ok (.setkeyRef 16) := by rfl
theorem test_decode_setkeyTable : decode 0x01040100 = .ok (.setkeyTable 4) := by rfl
theorem test_decode_setkeyFast : decode 0x01100200 = .ok (.setkeyFast 16) := by rfl
theorem test_decode_setiv : decode 0x022C0000 = .ok (.setiv 44) := by rfl
theorem test_decode_round : decode 0x03000000 = .ok .round := by rfl
theorem test_decode_batch : decode 0x04000000 = .ok .batch := by rfl
theorem test_decode_zeroize : decode 0x05000000 = .ok .zeroize := by rfl
theorem test_decode_setkey_bad_len_is_wellFormed : decode 0x01FF0000 = .ok (.setkeyRef 255) := by rfl

theorem test_reject_zero_field : decode 0x00000001 = .error .zeroFieldNonzero := by rfl
theorem test_reject_reserved_opcode : decode 0x06000000 = .error .reservedOpcode := by rfl
theorem test_reject_nop_len : decode 0x00010000 = .error .operandFieldNonzero := by rfl
theorem test_reject_batch_mode : decode 0x04000100 = .error .operandFieldNonzero := by rfl
theorem test_reject_setiv_mode : decode 0x02040100 = .error .setivModeNonzero := by rfl
theorem test_reject_setkey_mode3 : decode 0x01100300 = .error .setkeyModeReserved := by rfl

/-! ## The toy configurations of 95_test_vectors section 2 -/

/-- TOY-A. -/
def toyA : Params where
  sbox := Equiv.refl Byte
  qbox := fun _ => 0
  multab := fun _ => 0
  ivMin := .zero

/-- TOY-B. -/
def toyB : Params where
  sbox := Equiv.addRight 1
  qbox := fun x => (x.setWidth 32 <<< 8) ||| (x ^^^ 0xFF).setWidth 32
  multab := fun x => (x.setWidth 32 <<< 24) ||| x.setWidth 32
  ivMin := .zero

/-! ## Functions: V-W, V-F, V-K, V-T, V-S, V-P, V-KS, V-IV -/

theorem test_byteAt : [byteAt 0x12345678 0, byteAt 0x12345678 1, byteAt 0x12345678 2, byteAt 0x12345678 3]
    = [0x12, 0x34, 0x56, 0x78] := by decide
theorem test_b2w : b2w 0x74 0x65 0x73 0x74 = 0x74657374 := by decide
theorem test_w2b : w2b 0x696626BB = [0x69, 0x66, 0x26, 0xBB] := by decide
theorem test_rotl : [rotl 0x12345678 0, rotl 0x12345678 8, rotl 0x12345678 31, rotl 0x80000001 1]
    = [0x12345678, 0x34567812, 0x091A2B3C, 0x00000003] := by decide
theorem test_lane_put : lane 1 = 0x00FF0000 ∧ put 0xAB 2 = 0x0000AB00 := by decide
theorem test_shl8_top : shl8 0xC3A5F00F = 0xA5F00F00 ∧ top 0xC3A5F00F = 0xC3 := by decide

theorem test_fixedS_sequential : fixedS toyB 0x01020304 = 0xF902FEFA := by decide +kernel
theorem test_fixedS_wraps : fixedS toyB 0xFFFFFFFF = 0xFFFE0101 := by decide +kernel
theorem test_keyedS_toyA : keyedS toyA [0x01020304, 0xA0B0C0D0] 0x11223344 .r0 = 0xB090F090 := by decide +kernel
theorem test_keyedS_toyB_r8 : keyedS toyB [0x01020304, 0xA0B0C0D0] 0x11223344 .r8 = 0x47D993E9 := by decide +kernel
theorem test_keyedS_eight_words : keyedS toyB [0x00010203, 0x04050607, 0x08090A0B, 0x0C0D0E0F, 0x10111213, 0x14151617,
    0x18191A1B, 0x1C1D1E1F] 0xFFFFFFFF .r24 = 0xC22A07B5 := by decide +kernel
theorem test_tableEntry : tableEntry toyB [0x01020304, 0xA0B0C0D0] 0 0x22 = 0x85012E2F ∧
    tableEntry toyB [0x01020304, 0xA0B0C0D0] 3 0x11 = 0x990001C7 := by decide +kernel
theorem test_newWord_toyA : newWord toyA 0xC3A5F00F 0x04040404 0x8F0F0F0F = 0x2EFB040B := by decide
theorem test_newWord_toyB : newWord toyB 0xC3A5F00F 0x04040404 0x8F0F0F0F = 0xEDFB04C8 := by decide
theorem test_pht5 : pht5 ⟨1, 2, 3, 4, 5⟩ = ⟨0x10, 0x11, 0x12, 0x13, 0x0F⟩ := by decide
theorem test_phtN_wraps : phtN [3, 0xFFFFFFFE] = [4, 1] := by decide
theorem test_phtN_four : phtN [0xDEADBEEF, 0x01234567, 0x89ABCDEF, 0x0F1E2D3C]
    = [0x5748BE70, 0x79BE44E8, 0x0246CD70, 0x789AFF81] := by decide
theorem test_keySchedule : keySchedule toyB [0x74657374, 0x206B6579, 0x20313238, 0x62697473]
    = [0x2DE87E7D, 0x06FAB626, 0x3EC1BD65, 0x58AEDD7E] := by decide +kernel

/-- The key schedule of "test key 128bits" under TOY-B (V-KS). -/
def keyB : List Word := [0x2DE87E7D, 0x06FAB626, 0x3EC1BD65, 0x58AEDD7E]

/-- The register of V-IV for that key and the IV of four zero bytes. -/
def registerB : Vector Word 17 :=
  #v[0xC9A6577D, 0xF590D4FB, 0xCEA30CA4, 0x066A13E3, 0x205733FC, 0xC8AA59BF, 0xBBC1FDD9, 0xF19C1E11, 0x21D7AA79,
     0xA362F976, 0xF84D7FEB, 0x86E7AD20, 0xA20EDCF9, 0x5766017F, 0x290F11C2, 0x2AB083BC, 0xC7A8567E]

theorem test_ivLoad : (ivLoad toyB (keyedS toyB keyB) keyB [0]).toList = registerB.toList := by decide +kernel
theorem test_generateRound : (generateRound toyB (keyedS toyB keyB) registerB).2
    = ⟨0xC73DB6DE, 0xF9D6C9D5, 0x490BE679, 0x76A0FF6D, 0x0C7661DE⟩ := by decide +kernel
theorem test_offset_form : (offsetStep toyB { p := registerB, z := 16 }).z = 0 := by decide +kernel

/-! ## Commands under a toy configuration -/

/-- A block with the key of 45_key_iv_load R126's worked example in `DIN`. -/
def withKeyWord : Block := { Block.reset with din := Block.reset.din.set 0 0x00010203 }

/-- A block in phase `KEYED`, mode `REF`, with the key of V-KS. -/
def keyedB : Block := { Block.reset with phase := .keyed, kw := 4, k := toVector 8 keyB }

/-- A block in phase `RUNNING`, mode `REF`, with the key of V-KS and the register of V-IV. -/
def runningB : Block := { keyedB with phase := .running, r := registerB }

/-- R126's worked example: `STATUS = 0x00000011`. -/
theorem test_setkeyRef : statusWord (setkeyCommand toyA .ref 4 withKeyWord) = 0x00000011 ∧
    (setkeyCommand toyA .ref 4 withKeyWord).k[0] = 0x00010203 := by decide +kernel
/-- P3: `STATUS = 0x15` after `setkey 4, table` without an earlier failure; V-T: `T[0][0x11] = 0x11000000`. -/
theorem test_setkeyTable : statusWord (setkeyCommand toyA .table 4 withKeyWord) = 0x00000015 ∧
    tableAt (setkeyCommand toyA .table 4 withKeyWord).t 0 0x11 = 0x11000000 := by decide +kernel
/-- P2: `STATUS = 0x19` after `setkey 4, fast`; its table sample `T[3][0x80] = 8000007F`. -/
theorem test_setkeyFast : statusWord (setkeyCommand toyB .fast 4 withKeyWord) = 0x00000019 ∧
    tableAt (setkeyCommand toyB .fast 4 withKeyWord).t 3 0x80 = 0x8000007F := by decide +kernel
/-- P1: `STATUS = 0x42` after `setiv 4`; V-IV: the register. -/
theorem test_setiv : statusWord (setivCommand toyB 4 keyedB) = 0x00000042 ∧
    (setivCommand toyB 4 keyedB).r.toList = registerB.toList := by decide +kernel
/-- 60_exceptions R184: `LEN = 46` with `KW = 1` reports `ERR_IVLEN`, not `ERR_KIVLEN`. -/
theorem test_setiv_priority : (setivCommand toyB 46 { keyedB with kw := 1 }).err = .ivLen ∧
    (setivCommand toyB 48 { keyedB with kw := 1 }).err = .kivLen := by decide +kernel
/-- P1: `STATUS = 0x00050042` after the first `round`, and `DOUT[4] = 0x0C7661DE`. -/
theorem test_round : statusWord (roundCommand toyB runningB) = 0x00050042 ∧
    (roundCommand toyB runningB).dout[4] = 0x0C7661DE := by decide +kernel
/-- P1: after the second `round`, `DOUT[0] = 0xBFE27B5D`. -/
theorem test_round_twice : (roundCommand toyB (roundCommand toyB runningB)).dout[0] = 0xBFE27B5D := by decide +kernel
/-- V-B: `O[80] = 9ECFD9D5`, and word 16 of the register after 17 rounds. -/
theorem test_batch_words : ((generateBatch toyB (keyedS toyB keyB) registerB).2)[80]? = some 0x9ECFD9D5 ∧
    (generateBatch toyB (keyedS toyB keyB) registerB).1[16] = 0x331EF39E := by decide +kernel
/-- 46_round_batch R143: `BATCH` in mode `REF` is `ERR_MODE`. -/
theorem test_batch_mode : (batchCommand toyB runningB).err = .mode := by decide +kernel
theorem test_zeroize : zeroizeCommand runningB = Block.reset := by rfl
/-- 45_key_iv_load R132: `NOP` clears `ERR` and leaves `FAULT` (P3: `STATUS = 0x00001000`). -/
theorem test_nop : statusWord (succeed (raiseErr .addr Block.reset)) = 0x00001000 := by decide

/-! ## Witnesses: the hypotheses of the statements are met -/

/-- The state after reset with the given host accesses placed. -/
def withEvents (es : List HostEvent) : State := { State.reset with pending := es }

/-- A state in phase `KEYED` with `KW` key words. -/
def keyedState (kw : Fin 9) (mode : Mode) : State :=
  { State.reset with block := { Block.reset with phase := .keyed, kw := kw, mode := mode } }

/-- A state in phase `RUNNING`. -/
def runningState (mode : Mode) : State :=
  { State.reset with block := { Block.reset with phase := .running, kw := 1, mode := mode } }

/-- A state with `FAULT` set and the given host accesses placed. -/
def faultedState (es : List HostEvent) : State :=
  { State.reset with block := { Block.reset with err := .addr, fault := true }, pending := es }

/-- A transform whose queue holds the given bytes. -/
def queued (q : List Byte) (pad : Padding) : Transform := { block := runningState .ref, queue := q, pad := pad }

/-- The 4-byte key `00 01 02 03` of P2. -/
def key4 : List Byte := [0x00, 0x01, 0x02, 0x03]

/-- A 4-byte IV of zeros. -/
def iv4 : List Byte := [0, 0, 0, 0]

theorem ivMin_le_four : Config.IV_MIN.bytes ≤ 4 := by cases Config.IV_MIN <;> decide

/-! ### Encoding -/

theorem witness_DecodeOfEncode : (Instr.setkeyFast 255).wellFormed = true ∧ (Instr.setiv 0).wellFormed = true := by decide
theorem witness_EncodeOfDecode : decode 0x01FF0200 = .ok (.setkeyFast 255) := by rfl
theorem witness_illegal_zero : illegalEncoding 0x00000001 ∧ illegalEncoding 0x050000FF := by
  unfold illegalEncoding; decide
theorem witness_illegal_opc : illegalEncoding 0x06000000 ∧ illegalEncoding 0xFF000000 := by unfold illegalEncoding; decide
theorem witness_illegal_operand : illegalEncoding 0x00010000 ∧ illegalEncoding 0x0300FF00 ∧ illegalEncoding 0x04000100 ∧
    illegalEncoding 0x05FF0000 := by unfold illegalEncoding; decide
theorem witness_illegal_setiv : illegalEncoding 0x02000100 ∧ illegalEncoding 0x022CFF00 := by unfold illegalEncoding; decide
theorem witness_illegal_setkey : illegalEncoding 0x01040300 ∧ illegalEncoding 0x0104FF00 := by unfold illegalEncoding; decide
theorem witness_legal : ¬ illegalEncoding 0x05000000 ∧ ¬ illegalEncoding 0x01FF0200 ∧ ¬ illegalEncoding 0x02FF0000 := by
  unfold illegalEncoding; decide
theorem witness_OpcodeTableRows : { mnemonic := "SETKEY.FAST", matchWord := 0x01000200, mask := 0xFF00FFFF } ∈ opcodeTable ∧
    OpcodeRow.accepts { mnemonic := "SETKEY.FAST", matchWord := 0x01000200, mask := 0xFF00FFFF } 0x01200200 = true := by
  decide

/-! ### Steps and ports -/

theorem witness_StepRunsDecodedInstruction :
    (withEvents [.write 0x00 0x03000000]).pending = .write 0x00 0x03000000 :: [] ∧ decode 0x03000000 = .ok .round ∧
    decodeTableWord 32 0x05000000 = some .zeroize := ⟨rfl, rfl, rfl⟩
theorem witness_StepServesFirstAccess : State.reset.pending = [] ∧ (withEvents [.read 0x01]).pending = .read 0x01 :: [] ∧
    (withEvents [.write 0x10 7, .reset]).pending = .write 0x10 7 :: [.reset] := ⟨rfl, rfl, rfl⟩
theorem witness_mapped_boundaries : 0x10 ≤ (0x10 : PortIndex).toNat ∧ (0x1B : PortIndex).toNat ≤ 0x1B ∧
    (0x10 : PortIndex).toNat = 0x10 + (0 : Fin 12).val ∧ (0x1B : PortIndex).toNat = 0x10 + (11 : Fin 12).val ∧
    (0x80 : PortIndex).toNat = 0x80 + (0 : Fin 85).val ∧ (0xD4 : PortIndex).toNat = 0x80 + (84 : Fin 85).val := by decide
theorem witness_unmapped_boundaries : unmappedIndex 0x02 ∧ unmappedIndex 0x0F ∧ unmappedIndex 0x1C ∧ unmappedIndex 0x7F ∧
    unmappedIndex 0xD5 ∧ unmappedIndex 0xFF := by unfold unmappedIndex; decide
theorem witness_not_unmapped : ¬ unmappedIndex 0x01 ∧ ¬ unmappedIndex 0x10 ∧ ¬ unmappedIndex 0x1B ∧ ¬ unmappedIndex 0x80 ∧
    ¬ unmappedIndex 0xD4 := by unfold unmappedIndex; decide
theorem witness_mapped_write : (0x01 : PortIndex) ≠ 0x00 ∧ portWrite 0x01 5 State.reset = .next State.reset :=
  ⟨by decide, rfl⟩
theorem witness_reset_inv : Inv Config.params Block.reset :=
  ⟨fun _ => ⟨rfl, rfl, rfl, rfl, rfl, rfl, rfl⟩, fun h => (nomatch h), fun h => (nomatch h), fun _ => rfl⟩
theorem witness_StatusWordFields : Inv Config.params Block.reset ∧ Block.reset.phase = .empty := ⟨witness_reset_inv, rfl⟩
theorem witness_same_status : statusWord runningB = statusWord { runningB with r := Vector.replicate 17 9 } ∧
    runningB.dout = { runningB with r := Vector.replicate 17 9 }.dout := ⟨rfl, rfl⟩
theorem witness_din_write : portWrite 0x1B 9 State.reset = .next (mapBlock (writeDin 11 9) State.reset) ∧
    (mapBlock (writeDin 11 9) State.reset).block.din[11] ≠ State.reset.block.din[11] := ⟨rfl, by decide⟩

/-! ### Errors -/

theorem witness_FailureChangesErrAndFaultOnly : execute 0x06000000 State.reset = .next (failedWith .opcode State.reset) ∧
    (failedWith .opcode State.reset).block.err ≠ .none := ⟨rfl, by decide⟩
theorem witness_ErrorPriority : illegalEncoding 0x01210301 ∧ decode 0x01210000 = .ok (.setkeyRef 33) ∧
    execute 0x01210000 (runningState .ref) = .next (failedWith .state (runningState .ref)) :=
  ⟨by unfold illegalEncoding; decide, rfl, rfl⟩
theorem witness_wrong_phase : (keyedState 1 .ref).block.phase ≠ .empty ∧ (runningState .ref).block.phase ≠ .empty ∧
    State.reset.block.phase ≠ .keyed ∧ (keyedState 1 .ref).block.phase ≠ .running := by decide
theorem witness_wrong_mode : (runningState .fast).block.phase = .running ∧ (runningState .fast).block.mode = .fast ∧
    (runningState .ref).block.mode = .ref ∧ (runningState .table).block.mode = .table := by decide
theorem witness_illegal_key_lengths : State.reset.block.phase = .empty ∧ 0 ∉ [4, 8, 12, 16, 20, 24, 28, 32] ∧
    3 ∉ [4, 8, 12, 16, 20, 24, 28, 32] ∧ 33 ∉ [4, 8, 12, 16, 20, 24, 28, 32] ∧ 36 ∉ [4, 8, 12, 16, 20, 24, 28, 32] := by
  decide
theorem witness_iv_length : (keyedState 1 .ref).block.phase = .keyed ∧ (45 % 4 ≠ 0 ∨ 45 < Config.IV_MIN.bytes) :=
  ⟨rfl, .inl (by decide)⟩
theorem witness_iv_length_error : exec (.setiv 5) (keyedState 1 .ref) = .next (failedWith .ivLen (keyedState 1 .ref)) ∧
    (failedWith .ivLen (keyedState 1 .ref)).block.err = .ivLen := ⟨rfl, rfl⟩
theorem witness_kiv_length : (keyedState 1 .ref).block.phase = .keyed ∧ 48 % 4 = 0 ∧ Config.IV_MIN.bytes ≤ 48 ∧
    48 < 48 + 4 * (keyedState 1 .ref).block.kw.val := ⟨rfl, rfl, Nat.le_trans ivMin_le_four (by decide), by decide⟩
theorem witness_fault_cleared_by_zeroize : step (faultedState [.write 0x00 0x05000000]) = .next State.reset ∧
    (faultedState [.write 0x00 0x05000000]).block.fault = true ∧ State.reset.block.fault = false := ⟨rfl, rfl, rfl⟩
theorem witness_fault_cleared_by_reset : step (faultedState [.reset]) = .next State.reset := by rfl

/-! ### Commands -/

theorem witness_malformed_nop : (0x00010000 : Word) ≠ 0x00000000 ∧ (0x00010000 : Word).extractLsb' 24 8 = 0x00 := by decide
theorem witness_malformed_zeroize : (0x05000100 : Word) ≠ 0x05000000 ∧ (0x05000100 : Word).extractLsb' 24 8 = 0x05 := by
  decide
theorem witness_setkey_completes : State.reset.block.phase = .empty ∧ (4 ≤ 4 ∧ 4 ≤ 32 ∧ 4 % 4 = 0) ∧
    (4 ≤ 32 ∧ 32 ≤ 32 ∧ 32 % 4 = 0) := by decide
theorem witness_SetkeyIgnoresUpperDinWords : State.reset.block.phase = .empty ∧ keyLenLegal 4 = true ∧
    (∀ i : Fin 12, i.val < 4 / 4 → (Block.reset.din.set 11 9)[i] = Block.reset.din[i]) := by decide
theorem witness_setiv_completes_shortest : (keyedState 8 .table).block.phase = .keyed ∧ 4 % 4 = 0 ∧
    Config.IV_MIN.bytes ≤ 4 ∧ 4 + 4 * (keyedState 8 .table).block.kw.val ≤ 48 := ⟨rfl, rfl, ivMin_le_four, by decide⟩
theorem witness_setiv_completes_longest : (keyedState 1 .ref).block.phase = .keyed ∧ 44 % 4 = 0 ∧
    Config.IV_MIN.bytes ≤ 44 ∧ 44 + 4 * (keyedState 1 .ref).block.kw.val ≤ 48 :=
  ⟨rfl, rfl, Nat.le_trans ivMin_le_four (by decide), by decide⟩
theorem witness_round_completes : (runningState .ref).block.phase = .running ∧ (runningState .ref).block.mode ≠ .fast ∧
    (runningState .table).block.mode ≠ .fast := by decide
theorem witness_batch_completes : (runningState .fast).block.phase = .running ∧ (runningState .fast).block.mode = .fast ∧
    (84 : Fin 85).val = 5 * (16 : Fin 17).val + (4 : Fin 5).val := by decide

/-! ### Whole-machine rules -/

theorem witness_ResetEqualsZeroize : (withEvents [.reset]).pending = .reset :: [] := by rfl
theorem witness_StepKeepsInvariant : Inv Config.params (withEvents [.write 0x00 0]).block ∧
    step (withEvents [.write 0x00 0]) = .next State.reset := ⟨witness_reset_inv, rfl⟩
theorem witness_PhaseTransitions : ∃ t, step (withEvents [.write 0x00 0x01040000]) = .next t ∧ t.block.phase = .keyed :=
  ⟨_, rfl, rfl⟩
theorem witness_PhaseTransitions_back : (faultedState [.reset]).pending = .reset :: [] ∧
    (faultedState [.write 0x00 0x05000000]).pending = .write 0x00 0x05000000 :: [] := ⟨rfl, rfl⟩
theorem witness_KeyMaterialImmutable_keyed : ∃ t,
    step { keyedState 1 .table with pending := [.write 0x10 7] } = .next t ∧ (keyedState 1 .table).block.phase ≠ .empty ∧
    ∀ es, [HostEvent.write 0x10 7] ≠ .reset :: es ∧ [HostEvent.write 0x10 7] ≠ .write 0x00 0x05000000 :: es :=
  ⟨_, rfl, by decide, fun es => ⟨by simp, by simp⟩⟩
theorem witness_KeyMaterialImmutable_running : ∃ t,
    step { runningState .fast with pending := [.write 0x00 0x04000000] } = .next t ∧
    (runningState .fast).block.phase = .running ∧ ∀ es, [HostEvent.write 0x00 0x04000000] ≠ .reset :: es ∧
      [HostEvent.write 0x00 0x04000000] ≠ .write 0x00 0x05000000 :: es :=
  ⟨_, rfl, rfl, fun es => ⟨by simp, by simp⟩⟩
theorem witness_InstancesAreIndependent :
    [State.reset, withEvents [.write 0x00 0]][1]? = some (withEvents [.write 0x00 0]) ∧
    stepInstance 1 [State.reset, withEvents [.write 0x00 0]] = .next [State.reset, State.reset] := ⟨rfl, rfl⟩

/-! ### Functions -/

theorem witness_RotlMovesBits : (1 ≤ 1 ∧ 1 ≤ 31) ∧ (1 ≤ 31 ∧ 31 ≤ 31) ∧ 0 < 32 ∧ 31 < 32 := by decide
theorem witness_KeyScheduleInjective : ([7] : List Word).length = ([7] : List Word).length ∧
    keySchedule toyA [7] = keySchedule toyA [7] := ⟨rfl, rfl⟩
theorem witness_ivLoad_shortest : 1 ≤ ([7] : List Word).length ∧ ([7] : List Word).length ≤ 8 ∧
    ([] : List Word).length + ([7] : List Word).length ≤ 12 ∧ 0 + 1 + 1 ≤ 2 ∧ 2 < 17 := by decide
theorem witness_ivLoad_longest : 1 ≤ keyB.length ∧ keyB.length ≤ 8 ∧ [0, 1, 2, 3, 4, 5, 6, (7 : Word)].length + keyB.length ≤ 12 ∧
    8 + 4 + 1 ≤ 16 ∧ 16 < 17 := by decide

/-! ### The assembler's forms and the host layer -/

theorem witness_StatementFormsExpand : 0 < 256 ∧ 255 < 256 := by decide
theorem witness_DinWritesLoadPackedBytes : (List.replicate 48 (1 : Byte)).length % 4 = 0 ∧
    (List.replicate 48 (1 : Byte)).length ≤ 48 ∧ 4 * (11 : Fin 12).val < (List.replicate 48 (1 : Byte)).length ∧
    key4.length % 4 = 0 ∧ key4.length ≤ 4 * (1 : Fin 12).val := by decide
theorem witness_rdks_boundaries : (1 ≤ 1 ∧ 1 ≤ 85) ∧ (1 ≤ 85 ∧ 85 ≤ 85) := by decide
theorem witness_PseudoInstructionsExpand : ([] : List Byte).length % 4 = 0 ∧ ([] : List Byte).length ≤ 48 ∧
    (List.replicate 48 (1 : Byte)).length % 4 = 0 ∧ 11 < (List.replicate 48 (1 : Byte)).length / 4 := by decide
theorem witness_key_refused : ¬ keyAccepted [] ∧ ¬ keyAccepted (List.replicate 33 0) ∧ ¬ keyAccepted (List.replicate 6 0) := by
  unfold keyAccepted; decide
theorem witness_iv_refused : keyAccepted key4 ∧ ¬ ivAccepted Config.params key4 [1] ∧
    ¬ ivAccepted Config.params key4 (List.replicate 48 0) := by
  refine ⟨by unfold keyAccepted; decide, fun h => absurd h.1 (by decide), fun h => absurd h.2.2 (by decide)⟩
theorem witness_accepted : keyAccepted key4 ∧ ivAccepted Config.params key4 iv4 :=
  ⟨by unfold keyAccepted; decide, by decide, ivMin_le_four, by decide⟩

/-- A construction with an acceptable key and IV makes a transform. -/
theorem witness_construct (mode : Mode) : ∃ t, construct key4 iv4 (some .zeros) mode State.reset = .next (.made t) := by
  obtain ⟨s1, h1, he, hp, hk, hm, ho, hf⟩ :
      ∃ s1, accessAll (presentEvents key4 (setkeyInstr (hostLen key4) mode)) State.reset = .next s1 ∧ hostErr s1 = 0 ∧
        s1.block.phase = .keyed ∧ s1.block.kw = 1 ∧ s1.block.mode = mode ∧ s1.block.ocnt = 0 ∧ s1.block.fault = false := by
    cases mode <;> exact ⟨_, rfl, rfl, rfl, rfl, rfl, rfl, rfl⟩
  have h2 : accessAll (presentEvents iv4 (.setiv (hostLen iv4))) s1 =
      .next (mapBlock (setivCommand Config.params 4) (mapBlock (writeDin 0 0) s1)) := rfl
  have hl : ivLenLegal Config.params 4 = true := (ivLenLegal_iff _ _).2 ⟨rfl, ivMin_le_four⟩
  have hc : setivCommand Config.params 4 (writeDin 0 0 s1.block) =
      succeed (loadIv Config.params 4 (writeDin 0 0 s1.block)) := by
    simp [setivCommand, writeDin, hp, hl, hk, kivLenLegal]
  have he2 : hostErr (mapBlock (setivCommand Config.params 4) (mapBlock (writeDin 0 0) s1)) = 0 := by
    show bits 11 8 (statusWord (setivCommand Config.params 4 (writeDin 0 0 s1.block))) = 0
    rw [hc]
    simp only [statusWord, succeed, loadIv, clearDin, writeDin, hk, hm, ho, hf]
    cases mode <;> rfl
  have h0 : access (commandEvent .zeroize) State.reset = .next State.reset := rfl
  exact ⟨_, by simp only [construct, h0, andThen, h1, he, h2, he2, ne_eq, not_true_eq_false, if_false]; rfl⟩
theorem witness_BatchesEqualRounds : Mode.table ≠ .fast ∧
    (∃ t, construct key4 iv4 (some .zeros) .table State.reset = .next (.made t)) ∧
    (∃ t, construct key4 iv4 (some .zeros) .fast State.reset = .next (.made t)) :=
  ⟨by decide, witness_construct .table, witness_construct .fast⟩
theorem witness_NextBytesChunkIndependent : nextBytes (1 + 2) (queued [1, 2, 3] .zeros) = .next ([1, 2, 3], queued [] .zeros) := by
  rfl
theorem witness_transform_out_of_range : (iv4.length : Int) < 0 + 20 ∧ (-1 : Int) < 0 ∧ (19 : Int) % 20 ≠ 0 := by decide
theorem witness_nextBytes_twenty : nextBytes 20 (queued (List.replicate 20 3) .pkcs7) =
    .next (List.replicate 20 3, queued [] .pkcs7) := by rfl
theorem witness_TransformWritesExactly : 1 + 20 ≤ (List.replicate 21 (9 : Byte)).length ∧
    2 + 20 ≤ (List.replicate 23 (9 : Byte)).length ∧ 20 % 20 = 0 := by decide
theorem witness_TransformTwiceReturnsInput : ∃ r r',
    transform (List.replicate 20 9) 0 20 (List.replicate 20 0) 0 (queued (List.replicate 20 3) .zeros) = .next (.ok r) ∧
    transform r.output 0 20 (List.replicate 20 1) 0 (queued (List.replicate 20 3) .zeros) = .next (.ok r') :=
  ⟨_, _, rfl, rfl⟩
theorem witness_TransformChunkIndependent : ∃ r1 r2 r,
    transform (List.replicate 20 9) 0 20 (List.replicate 20 9) 0 (queued (List.replicate 40 3) .zeros) = .next (.ok r1) ∧
    transform (List.replicate 20 8) 0 20 (List.replicate 20 8) 0 r1.transform = .next (.ok r2) ∧
    transform (List.replicate 20 9 ++ List.replicate 20 8) 0 40 (List.replicate 20 9 ++ List.replicate 20 8) 0
      (queued (List.replicate 40 3) .zeros) = .next (.ok r) := ⟨_, _, _, rfl, rfl, rfl⟩
theorem witness_transformFinal_out_of_range : (-1 : Int) < 0 ∧ (20 : Int) < 21 ∧ (key4.length : Int) < 2 + 3 := by decide
theorem witness_TransformFinalPadsAndEncrypts : 0 ≤ 20 ∧ 1 + 3 ≤ key4.length ∧ 0 + 0 ≤ key4.length := by decide
theorem witness_Pkcs7PadUnpadRoundTrip : ([] : List Byte).length < 20 ∧ (List.replicate 19 (9 : Byte)).length < 20 := by decide

end Sys2Proof.Tests
end

section
/-!
The decoder, what it accepts, and the step that serves a write of `CMD`: O6.
-/

namespace Sys2Proof.Machine

theorem fieldLen_lt (v : Word) : fieldLen v < 256 := Nat.mod_lt _ (by decide)

/-- Everything the decoder accepts without operand fields. -/
theorem decodeBare_eq_ok_iff (i j : Instr) (v : Word) :
    decodeBare i v = .ok j ↔ fieldLen v = 0 ∧ fieldMode v = 0 ∧ i = j := by
  by_cases h : fieldLen v ≠ 0 ∨ fieldMode v ≠ 0
  · simp only [decodeBare, if_pos h, reduceCtorEq, false_iff]
    omega
  · obtain ⟨hl, hm⟩ := not_or.1 h
    simp [decodeBare, not_not.1 hl, not_not.1 hm]

/-- Everything the decoder can accept, by the fields of the word (30_encoding R72). -/
theorem decode_ok_cases (v : Word) (i : Instr) (h : decode v = .ok i) :
    fieldZero v = 0 ∧
    ((fieldOpc v = 0 ∧ fieldLen v = 0 ∧ fieldMode v = 0 ∧ i = .nop) ∨
     (fieldOpc v = 1 ∧ fieldMode v = 0 ∧ i = .setkeyRef (fieldLen v)) ∨
     (fieldOpc v = 1 ∧ fieldMode v = 1 ∧ i = .setkeyTable (fieldLen v)) ∨
     (fieldOpc v = 1 ∧ fieldMode v = 2 ∧ i = .setkeyFast (fieldLen v)) ∨
     (fieldOpc v = 2 ∧ fieldMode v = 0 ∧ i = .setiv (fieldLen v)) ∨
     (fieldOpc v = 3 ∧ fieldLen v = 0 ∧ fieldMode v = 0 ∧ i = .round) ∨
     (fieldOpc v = 4 ∧ fieldLen v = 0 ∧ fieldMode v = 0 ∧ i = .batch) ∨
     (fieldOpc v = 5 ∧ fieldLen v = 0 ∧ fieldMode v = 0 ∧ i = .zeroize)) := by
  unfold decode at h
  split at h
  · cases h
  next hz =>
  refine ⟨not_not.1 hz, ?_⟩
  split at h
  next ho =>
    obtain ⟨hl, hm, rfl⟩ := (decodeBare_eq_ok_iff _ _ v).1 h
    simp [ho, hl, hm]
  next ho =>
    split at h
    next hm => cases h; simp [ho, hm]
    next hm => cases h; simp [ho, hm]
    next hm => cases h; simp [ho, hm]
    next => cases h
  next ho =>
    split at h
    · cases h
    next hm =>
      cases h
      simp [ho, not_not.1 hm]
  next ho =>
    obtain ⟨hl, hm, rfl⟩ := (decodeBare_eq_ok_iff _ _ v).1 h
    simp [ho, hl, hm]
  next ho =>
    obtain ⟨hl, hm, rfl⟩ := (decodeBare_eq_ok_iff _ _ v).1 h
    simp [ho, hl, hm]
  next ho =>
    obtain ⟨hl, hm, rfl⟩ := (decodeBare_eq_ok_iff _ _ v).1 h
    simp [ho, hl, hm]
  next => cases h

theorem wellFormed_of_decode (v : Word) (i : Instr) (h : decode v = .ok i) : i.wellFormed = true := by
  have hl : lenFits (fieldLen v) = true := decide_eq_true (fieldLen_lt v)
  obtain ⟨-, ⟨-, -, -, rfl⟩ | ⟨-, -, rfl⟩ | ⟨-, -, rfl⟩ | ⟨-, -, rfl⟩ | ⟨-, -, rfl⟩ | ⟨-, -, -, rfl⟩ |
    ⟨-, -, -, rfl⟩ | ⟨-, -, -, rfl⟩⟩ := decode_ok_cases v i h
  all_goals simp [Instr.wellFormed, hl]

/-- The decoder reads every well-formed instruction back from its own word. -/
theorem decode_encode (i : Instr) (h : i.wellFormed = true) : decode (encode i) = .ok i := by
  cases i with
  | nop => exact Laws.DecodeEncode.nop h
  | setkeyRef len => exact Laws.DecodeEncode.setkeyRef len h
  | setkeyTable len => exact Laws.DecodeEncode.setkeyTable len h
  | setkeyFast len => exact Laws.DecodeEncode.setkeyFast len h
  | setiv len => exact Laws.DecodeEncode.setiv len h
  | round => exact Laws.DecodeEncode.round h
  | batch => exact Laws.DecodeEncode.batch h
  | zeroize => exact Laws.DecodeEncode.zeroize h

/-- A write of a decoding word to `CMD` is `exec` of what it decodes to (20_memory R54, 30_encoding R76). -/
theorem access_cmd_of_decode (v : Word) (i : Instr) (s : State) (h : decode v = .ok i) :
    access (.write 0x00 v) s = exec i s := by
  have hp : portOf 0x00 = .cmd := (portOf_cmd_iff 0x00).2 rfl
  rw [access, portWrite, hp]
  simp only [execute, h]

/-- A step whose access writes a decoding word to `CMD`. -/
theorem step_cmd_of_decode (s : State) (v : Word) (es : List HostEvent) (i : Instr)
    (hs : s.pending = .write 0x00 v :: es) (h : decode v = .ok i) : step s = exec i { s with pending := es } := by
  rw [step, serve, hs]
  exact access_cmd_of_decode v i _ h

theorem decodeTableWord_eq_some_iff (w : Nat) (i : Instr) :
    decodeTableWord 32 w = some i ↔ decode (BitVec.ofNat 32 (w % 2 ^ 32)) = .ok i := by
  rw [decodeTableWord, if_pos le_rfl]
  cases decode (BitVec.ofNat 32 (w % 2 ^ 32)) <;> simp [Except.toOption]

/-- Settles O6: the step serves the written `CMD` word, which `decode` reads as `i`. -/
theorem stepRunsDecodedInstruction : Obligations.StepRunsDecodedInstruction := by
  refine ⟨fun s v es i hs h => ⟨wellFormed_of_decode v i h, step_cmd_of_decode s v es i hs h⟩, fun s w i h => ?_⟩
  have hd := (decodeTableWord_eq_some_iff w i).1 h
  exact step_cmd_of_decode (s.withFetchWord 32 w) _ s.pending i (withFetchWord_pending s 32 w) hd

end Sys2Proof.Machine
end

section
/-!
KeyedS in its two forms: the table form on the tables of a key schedule is the direct form (42_keyed_s R109).
-/

namespace Sys2Proof.Machine

/-- The direct form runs the loop of the table build at each byte position (R105, R107). -/
theorem keyedSLoop_getElem (c : Params) (i : Nat) (ks : List Word) (v : Vector LaneAcc 4) (p : Fin 4) :
    (keyedSLoop c i ks v)[p] = tableLoop c p i ks v[p] := by
  induction ks generalizing i v with
  | nil => rfl
  | cons k ks ih =>
    rw [keyedSLoop, tableLoop, ih]
    simp

theorem tableAt_buildTables (c : Params) (ks : List Word) (p : Fin 4) (x : Byte) :
    tableAt (buildTables c ks) p x = tableEntry c ks p x := by
  simp only [tableAt, buildTables, Vector.get_eq_getElem, Vector.getElem_ofFn]

/-- The table form on the tables of a key schedule is the direct form on that key schedule (R109). -/
theorem keyedST_buildTables (c : Params) (ks : List Word) : keyedST (buildTables c ks) = keyedS c ks := by
  funext w r
  have term_eq (p : Fin 4) :
      laneTerm p (keyedSLoop c 0 ks (Vector.ofFn fun p => { b := byteAt (rotl w r.amount) p, ws := 0 }))[p] =
        tableEntry c ks p (byteAt (rotl w r.amount) p) := by
    rw [keyedSLoop_getElem]
    simp [tableEntry]
  simp only [keyedST, tableAt_buildTables, ← term_eq]
  rfl

/-- The KeyedS of a block depends on its key fields only (R110). -/
theorem keyedOf_congr (c : Params) {b b' : Block} (hk : b'.k = b.k) (hkw : b'.kw = b.kw) (ht : b'.t = b.t)
    (hm : b'.mode = b.mode) : keyedOf c b' = keyedOf c b := by
  simp [keyedOf, keyWords, hk, hkw, ht, hm]

end Sys2Proof.Machine
end

section
/-!
Sequences: the first entries of an array, packing and serializing (20_memory R56).
-/

namespace Sys2Proof.Machine

/-- An array made of a sequence begins with that sequence. -/
theorem toVector_take (n : Nat) (ws : List Word) (h : ws.length ≤ n) :
    (toVector n ws).toList.take ws.length = ws := by
  apply List.ext_getElem
  · simp [h]
  · intro i _ hi
    simp [hi]

theorem packWords_length (bs : List Byte) : (packWords bs).length = bs.length / 4 := by
  induction bs using packWords.induct with
  | case1 b0 b1 b2 b3 bs ih => simp [ih]; omega
  | case2 bs h =>
    rw [packWords]
    · match bs, h with
      | [], _ | [_], _ | [_, _], _ | [_, _, _], _ => simp
      | _ :: _ :: _ :: _ :: _, h => exact absurd rfl (h _ _ _ _ _)
    · exact h

@[simp] theorem phtN_length (ws : List Word) : (phtN ws).length = ws.length := by
  cases ws using List.reverseRecOn <;> simp [phtN]

@[simp] theorem keySchedule_length (c : Params) (d : List Word) : (keySchedule c d).length = d.length := by
  simp [keySchedule]

theorem serialize_append (ws vs : List Word) : serialize (ws ++ vs) = serialize ws ++ serialize vs :=
  List.flatMap_append

theorem serialize_length (ws : List Word) : (serialize ws).length = 4 * ws.length := by
  induction ws with
  | nil => rfl
  | cons w ws ih => simp [ih]; omega

end Sys2Proof.Machine
end

section
/-!
The host's accesses to a block: the words of a byte string written to `DIN`, a command written to `CMD`, and the error
read back from `STATUS` (47_host_stream R157).
-/

namespace Sys2Proof.Machine

@[simp] theorem andThen_next {σ τ : Type} (s : σ) (f : σ → Host.Outcome τ Fault Refusal) :
    andThen (.next s) f = f s := rfl

theorem accessAll_append (es fs : List HostEvent) (s : State) :
    accessAll (es ++ fs) s = andThen (accessAll es s) (accessAll fs) := by
  induction es generalizing s with
  | nil => rfl
  | cons e es ih => simp only [List.cons_append, accessAll, access_eq, andThen_next, ih]

theorem accessAll_singleton (e : HostEvent) (s : State) : accessAll [e] s = access e s := by
  rw [accessAll, access_eq]
  rfl

/-- The write of a well-formed instruction's word changes the block as the instruction does. -/
theorem access_commandEvent (i : Instr) (s : State) (h : i.wellFormed = true) :
    access (commandEvent i) s = .next (mapBlock (instrEffect Config.params i) s) := by
  rw [commandEvent, access_cmd_of_decode _ _ _ (decode_encode i h), exec_eq]

/-- `DIN[i], DIN[i + 1], ...` hold the words `ws`; the other cells are left alone. -/
def storeDin (i : Nat) (ws : List Word) (b : Block) : Block :=
  { b with din := Vector.ofFn fun j => if i ≤ j.val ∧ j.val < i + ws.length then ws.getD (j.val - i) 0 else b.din[j] }

@[simp] theorem storeDin_r (i : Nat) (ws : List Word) (b : Block) : (storeDin i ws b).r = b.r := rfl
@[simp] theorem storeDin_k (i : Nat) (ws : List Word) (b : Block) : (storeDin i ws b).k = b.k := rfl
@[simp] theorem storeDin_kw (i : Nat) (ws : List Word) (b : Block) : (storeDin i ws b).kw = b.kw := rfl
@[simp] theorem storeDin_t (i : Nat) (ws : List Word) (b : Block) : (storeDin i ws b).t = b.t := rfl
@[simp] theorem storeDin_dout (i : Nat) (ws : List Word) (b : Block) : (storeDin i ws b).dout = b.dout := rfl
@[simp] theorem storeDin_ocnt (i : Nat) (ws : List Word) (b : Block) : (storeDin i ws b).ocnt = b.ocnt := rfl
@[simp] theorem storeDin_phase (i : Nat) (ws : List Word) (b : Block) : (storeDin i ws b).phase = b.phase := rfl
@[simp] theorem storeDin_mode (i : Nat) (ws : List Word) (b : Block) : (storeDin i ws b).mode = b.mode := rfl
@[simp] theorem storeDin_err (i : Nat) (ws : List Word) (b : Block) : (storeDin i ws b).err = b.err := rfl
@[simp] theorem storeDin_fault (i : Nat) (ws : List Word) (b : Block) : (storeDin i ws b).fault = b.fault := rfl

@[simp] theorem storeDin_din_getElem (i : Nat) (ws : List Word) (b : Block) (j : Nat) (h : j < 12) :
    (storeDin i ws b).din[j] = if i ≤ j ∧ j < i + ws.length then ws.getD (j - i) 0 else b.din[j] := by
  simp [storeDin]

theorem storeDin_nil (i : Nat) (b : Block) : storeDin i [] b = b := by
  have h : (storeDin i [] b).din = b.din := by
    ext j hj
    rw [storeDin_din_getElem, if_neg (by simp)]
  exact congrArg (fun d => { b with din := d }) h

theorem storeDin_cons (i : Nat) (hi : i < 12) (w : Word) (ws : List Word) (b : Block) :
    storeDin i (w :: ws) b = storeDin (i + 1) ws (writeDin ⟨i, hi⟩ w b) := by
  have h : (storeDin i (w :: ws) b).din = (storeDin (i + 1) ws (writeDin ⟨i, hi⟩ w b)).din := by
    ext j hj : 1
    simp only [storeDin_din_getElem, writeDin_din, Vector.getElem_set, List.length_cons]
    rcases Nat.lt_trichotomy j i with hlt | rfl | hgt
    · rw [if_neg (by omega), if_neg (by omega), if_neg (by omega)]
    · simp
    · obtain ⟨n, rfl⟩ : ∃ n, j = i + 1 + n := ⟨j - (i + 1), by omega⟩
      have h0 : i + 1 + n - i = n + 1 := by omega
      have h1 : i + 1 + n - (i + 1) = n := by omega
      have h2 : ¬ i = i + 1 + n := by omega
      simp only [h0, h1, h2, List.getD_cons_succ, if_false]
      exact if_congr (by omega) rfl rfl
  exact congrArg (fun d => { b with din := d }) h

/-- The cells that were written are the words again. -/
theorem dinWords_storeDin (ws : List Word) (b : Block) (h : ws.length ≤ 12) :
    dinWords ws.length (storeDin 0 ws b) = ws := by
  apply List.ext_getElem
  · simp [dinWords, h]
  · intro i _ hi
    simp [dinWords, hi]

/-- Index `0x10 + i` is `DIN[i]` (20_memory R51). -/
theorem portOf_din (i : Fin 12) : portOf (BitVec.ofNat 8 (0x10 + i.val)) = .din i := by
  have h : (BitVec.ofNat 8 (0x10 + i.val)).toNat = 0x10 + i.val := by
    rw [BitVec.toNat_ofNat]; omega
  simp only [portOf, h]
  rw [if_neg (by omega), if_neg (by omega), dif_pos (by omega)]
  simp

/-- The writes of words to consecutive cells of `DIN`, as far as they fit. -/
theorem accessAll_dinEvents (i : Nat) (ws : List Word) (s : State) (h : i + ws.length ≤ 12) :
    accessAll (dinEvents i ws) s = .next (mapBlock (storeDin i ws) s) := by
  induction ws generalizing i s with
  | nil => simp [dinEvents, accessAll, mapBlock, storeDin_nil]
  | cons w ws ih =>
    rw [List.length_cons] at h
    have hw : access (.write (BitVec.ofNat 8 (0x10 + i)) w) s = .next (mapBlock (writeDin ⟨i, by omega⟩ w) s) := by
      rw [access, portWrite, portOf_din ⟨i, by omega⟩]
    rw [dinEvents, accessAll, hw, andThen_next, ih (i + 1) _ (by omega)]
    simp only [mapBlock, storeDin_cons i (by omega)]

/-- A byte string that `DIN` can hold is presented by its true length. -/
theorem wordCount_hostLen (bytes : List Byte) (h : hostLen bytes ≤ 48) :
    wordCount (hostLen bytes) = (packWords bytes).length := by
  rw [hostLen] at h
  rw [packWords_length, wordCount, hostLen]
  omega

/-- The words a command reads are those of the byte string presented to it. -/
theorem dinWords_presented (bytes : List Byte) (b : Block) (h : hostLen bytes ≤ 48) :
    dinWords (wordCount (hostLen bytes)) (storeDin 0 ((packWords bytes).take 12) b) = packWords bytes := by
  have hcount := wordCount_hostLen bytes h
  have hle : (packWords bytes).length ≤ 12 := by rw [← hcount, wordCount]; omega
  rw [hcount, List.take_of_length_le hle, dinWords_storeDin _ _ hle]

theorem wellFormed_setkeyInstr (len : Nat) (mode : Mode) : (setkeyInstr len mode).wellFormed = lenFits len := by
  cases mode <;> rfl

theorem instrEffect_setkeyInstr (c : Params) (len : Nat) (mode : Mode) :
    instrEffect c (setkeyInstr len mode) = setkeyCommand c mode len := by
  cases mode <;> rfl

theorem lenFits_hostLen (bytes : List Byte) : lenFits (hostLen bytes) = true :=
  decide_eq_true (Nat.lt_succ_of_le (Nat.min_le_right bytes.length 255))

/-- Presenting a byte string with a command: its words in `DIN`, then the command's effect (R157). -/
theorem accessAll_presentEvents (bytes : List Byte) (i : Instr) (s : State) (h : i.wellFormed = true) :
    accessAll (presentEvents bytes i) s =
      .next (mapBlock (fun b => instrEffect Config.params i (storeDin 0 ((packWords bytes).take 12) b)) s) := by
  rw [presentEvents, accessAll_append, accessAll_dinEvents _ _ _ (by simp), andThen_next, accessAll_singleton,
    access_commandEvent i _ h]
  rfl

/-- The host reads the code of `ERR` in `STATUS` (10_state R31). -/
theorem hostErr_eq (s : State) : hostErr s = s.block.err.code := by
  have hp : s.block.phase.code < 4 := by cases s.block.phase <;> decide
  have hm : s.block.mode.code < 4 := by cases s.block.mode <;> decide
  have he : s.block.err.code < 16 := by cases s.block.err <;> decide
  have hf : s.block.fault.toNat < 2 := Bool.toNat_lt _
  have hk : s.block.kw.val < 16 := by omega
  have ho : s.block.ocnt.val < 128 := by omega
  have hr : (portRead 0x01 s.block).1 = statusWord s.block := rfl
  rw [hostErr, hr, bits, statusWord, BitVec.toNat_ofNat]
  omega

theorem hostErr_eq_zero_iff (s : State) : hostErr s = 0 ↔ s.block.err = .none := by
  rw [hostErr_eq]
  cases s.block.err <;> decide

/-! ### Construction -/

/-- The block after a key was presented to a block (R157). -/
def presentKey (c : Params) (mode : Mode) (key : List Byte) (b : Block) : Block :=
  setkeyCommand c mode (hostLen key) (storeDin 0 ((packWords key).take 12) b)

/-- The block after an IV was presented to a block (R157). -/
def presentIv (c : Params) (iv : List Byte) (b : Block) : Block :=
  setivCommand c (hostLen iv) (storeDin 0 ((packWords iv).take 12) b)

/-- `Construct` with a padding scheme: the key on a zeroized block, then the IV, each followed by a look at `ERR`; a
failure leaves the block zeroized (R157). -/
theorem construct_some_eq (key iv : List Byte) (pad : Padding) (mode : Mode) (s : State) :
    construct key iv (some pad) mode s =
      if (presentKey Config.params mode key Block.reset).err ≠ .none then
        .next (.failed .key { s with block := Block.reset })
      else if (presentIv Config.params iv (presentKey Config.params mode key Block.reset)).err ≠ .none then
        .next (.failed .iv { s with block := Block.reset })
      else .next (.made {
        block := { s with block := presentIv Config.params iv (presentKey Config.params mode key Block.reset) }
        queue := []
        pad := pad }) := by
  have zero (s : State) : access (commandEvent .zeroize) s = .next { s with block := Block.reset } :=
    access_commandEvent .zeroize s rfl
  have present_key (s : State) : accessAll (presentEvents key (setkeyInstr (hostLen key) mode)) s =
      .next (mapBlock (presentKey Config.params mode key) s) := by
    rw [accessAll_presentEvents _ _ _ ((wellFormed_setkeyInstr _ _).trans (lenFits_hostLen key)),
      instrEffect_setkeyInstr]
    rfl
  have present_iv (s : State) : accessAll (presentEvents iv (.setiv (hostLen iv))) s =
      .next (mapBlock (presentIv Config.params iv) s) := accessAll_presentEvents _ _ _ (lenFits_hostLen iv)
  simp only [construct, constructFail, zero, present_key, present_iv, andThen_next, ne_eq, hostErr_eq_zero_iff,
    mapBlock_block]
  rfl

/-- What a construction that made a transform did. -/
theorem construct_made (key iv : List Byte) (pad : Option Padding) (mode : Mode) (s : State) (t : Transform)
    (h : construct key iv pad mode s = .next (.made t)) :
    (presentKey Config.params mode key Block.reset).err = .none ∧
    (presentIv Config.params iv (presentKey Config.params mode key Block.reset)).err = .none ∧
    t.block.block = presentIv Config.params iv (presentKey Config.params mode key Block.reset) ∧ t.queue = [] := by
  cases pad with
  | none => cases h
  | some pad =>
    rw [construct_some_eq] at h
    split at h
    · cases h
    next hk =>
      split at h
      · cases h
      next hi =>
        cases h
        exact ⟨not_not.1 hk, not_not.1 hi, rfl, rfl⟩

/-- What a key that was accepted leaves: its key schedule, in the form the mode reads it (R126). -/
structure KeyReady (c : Params) (key : List Byte) (b : Block) : Prop where
  phase : b.phase = .keyed
  keyWords : keyWords b = keySchedule c (packWords key)
  keyedOf : keyedOf c b = keyedS c (keySchedule c (packWords key))

theorem keyReady_presentKey (c : Params) (mode : Mode) (key : List Byte)
    (h : (presentKey c mode key Block.reset).err = .none) : KeyReady c key (presentKey c mode key Block.reset) := by
  rw [presentKey] at h ⊢
  generalize hb : storeDin 0 ((packWords key).take 12) Block.reset = b at h ⊢
  rcases setkeyCommand_cases c mode (hostLen key) b with ⟨-, he⟩ | ⟨-, -, he⟩ | ⟨-, hl, he⟩
  · rw [he] at h; cases h
  · rw [he] at h; cases h
  rw [he]
  obtain ⟨-, h32, -⟩ := (keyLenLegal_iff _).1 hl
  have hcount := wordCount_hostLen key (by omega)
  have hle : (packWords key).length ≤ 8 := by rw [← hcount, wordCount]; omega
  have hdin : dinWords (wordCount (hostLen key)) b = packWords key := by
    rw [← hb, dinWords_presented _ _ (by omega)]
  have hkw : (Fin.ofNat 9 (wordCount (hostLen key))).val = (keySchedule c (packWords key)).length := by
    rw [keySchedule_length, hcount, Fin.val_ofNat, Nat.mod_eq_of_lt (by omega)]
  have hwords : Machine.keyWords (succeed (loadKey c mode (hostLen key) b)) = keySchedule c (packWords key) := by
    simp only [Machine.keyWords, succeed_k, succeed_kw, loadKey_k, loadKey_kw, hdin, hkw]
    exact toVector_take 8 _ (by rwa [keySchedule_length])
  refine ⟨rfl, hwords, ?_⟩
  cases mode with
  | ref => simp only [Machine.keyedOf, succeed_mode, loadKey_mode, hwords]
  | table =>
    simp only [Machine.keyedOf, succeed_mode, loadKey_mode, succeed_t, loadKey_t, keyTables, hdin, keyedST_buildTables]
  | fast =>
    simp only [Machine.keyedOf, succeed_mode, loadKey_mode, succeed_t, loadKey_t, keyTables, hdin, keyedST_buildTables]

/-- What an IV that was accepted leaves: the register that `IVLoad` makes of key and IV (R129). -/
theorem presentIv_effect (c : Params) (iv : List Byte) (b : Block) (h : (presentIv c iv b).err = .none) :
    (presentIv c iv b).phase = .running ∧ keyedOf c (presentIv c iv b) = keyedOf c b ∧
    (presentIv c iv b).r = ivLoad c (keyedOf c b) (keyWords b) (packWords iv) := by
  rw [presentIv] at h ⊢
  generalize hb : storeDin 0 ((packWords iv).take 12) b = d at h ⊢
  have hkeyed : keyedOf c d = keyedOf c b := by rw [← hb]; exact keyedOf_congr c rfl rfl rfl rfl
  have hwords : keyWords d = keyWords b := by rw [← hb]; rfl
  rcases setivCommand_cases c (hostLen iv) d with ⟨-, he⟩ | ⟨-, -, he⟩ | ⟨-, -, -, he⟩ | ⟨-, -, hl, he⟩
  · rw [he] at h; cases h
  · rw [he] at h; cases h
  · rw [he] at h; cases h
  rw [he]
  have h48 := (kivLenLegal_iff _ _).1 hl
  have hdin : dinWords (wordCount (hostLen iv)) d = packWords iv := by
    rw [← hb, dinWords_presented _ _ (by omega)]
  refine ⟨rfl, ?_, ?_⟩
  · rw [← hkeyed]
    exact keyedOf_congr c (by simp) (by simp) (by simp) (by simp)
  · rw [succeed_r, loadIv_r, hkeyed, hwords, hdin]

end Sys2Proof.Machine
end

section
/-!
Drawing the keystream: what a generation command leaves, in every mode a whole number of rounds, and the transform that
draws their bytes one after the other: O53.
-/

namespace Sys2Proof.Machine

/-! ### Rounds one after the other -/

/-- The rounds after `m` rounds go on from the register those left. -/
theorem generateRounds_add_register (c : Params) (s : Word → Rotation → Word) (m n : Nat) (r : Vector Word 17) :
    (generateRounds c s (m + n) r).1 = (generateRounds c s n (generateRounds c s m r).1).1 := by
  induction m generalizing r with
  | zero => rw [Nat.zero_add]; rfl
  | succ m ih => rw [Nat.succ_add]; exact ih _

theorem generateRounds_outputs_length (c : Params) (s : Word → Rotation → Word) (n : Nat) (r : Vector Word 17) :
    (generateRounds c s n r).2.length = n := by
  induction n generalizing r with
  | zero => rfl
  | succ n ih => simp [generateRounds, ih]

theorem generateBatch_words_length (c : Params) (s : Word → Rotation → Word) (r : Vector Word 17) :
    (generateBatch c s r).2.length = 85 := by
  have hw (v : Five) : v.words.length = 5 := rfl
  simp [generateBatch, List.length_flatMap, hw, generateRounds_outputs_length]

theorem keystreamRegister_add (c : Params) (k v : List Word) (m n : Nat) :
    keystreamRegister c k v (m + n) = (generateRounds c (keyedS c k) n (keystreamRegister c k v m)).1 :=
  generateRounds_add_register c _ m n _

/-- The bytes of round `m` are `KS[20m .. 20m + 19]` (R146). -/
theorem serialize_keystreamRound (c : Params) (key iv : List Word) (m : Nat) :
    serialize (keystreamRound c (keySchedule c key) iv m).words =
      (List.range' (20 * m) 20).map (keystream c key iv) := by
  have hlen : (serialize (keystreamRound c (keySchedule c key) iv m).words).length = 20 := serialize_length _
  apply List.ext_getElem
  · simp [hlen]
  · intro i hi _
    have hdiv : (20 * m + i) / 20 = m := by omega
    have hmod : (20 * m + i) % 20 = i := by omega
    simp [keystream, hdiv, hmod, hi]

/-- The bytes of `n` rounds from round `m` on are `KS[20m .. 20(m + n) - 1]`. -/
theorem serialize_generateRounds (c : Params) (key iv : List Word) (m n : Nat) :
    serialize ((generateRounds c (keyedS c (keySchedule c key)) n
        (keystreamRegister c (keySchedule c key) iv m)).2.flatMap Five.words) =
      (List.range' (20 * m) (20 * n)).map (keystream c key iv) := by
  induction n generalizing m with
  | zero => rfl
  | succ n ih =>
    have hnext := ih (m + 1)
    rw [keystreamRegister_add] at hnext
    have hsplit : 20 * (n + 1) = 20 + 20 * n := by omega
    have hstart : 20 * m + 1 * 20 = 20 * (m + 1) := by omega
    rw [hsplit, ← List.range'_append, List.map_append, hstart, ← serialize_keystreamRound, ← hnext, ← serialize_append]
    rfl

/-! ### The generation command of a mode -/

/-- How many rounds the generation command of a mode runs (R141, R143). -/
def roundsPerCommand : Mode → Nat
  | .ref => 1
  | .table => 1
  | .fast => 17

theorem storeRound_dout_take (v : Five) (b : Block) : (storeRound v b).dout.toList.take 5 = v.words := by
  apply List.ext_getElem
  · simp [Five.words]
  · intro i hi _
    have h5 : i < 5 := by simpa using hi
    interval_cases i <;> simp [Five.words]

/-- What the generation command of its mode does to a running block: its rounds, with their words at the front of `DOUT`
and `OCNT` counting them. -/
structure Generated (c : Params) (n : Nat) (b b' : Block) : Prop where
  phase : b'.phase = .running
  keyedOf : keyedOf c b' = keyedOf c b
  register : b'.r = (generateRounds c (Machine.keyedOf c b) n b.r).1
  words : b'.dout.toList.take b'.ocnt.val = (generateRounds c (Machine.keyedOf c b) n b.r).2.flatMap Five.words

theorem generated_runRound (c : Params) (b : Block) (hp : b.phase = .running) :
    Generated c 1 b (succeed (runRound c b)) where
  phase := by simp [hp]
  keyedOf := keyedOf_congr c (by simp) (by simp) (by simp) (by simp)
  register := by simp [generateRounds]
  words := by
    rw [succeed_dout, succeed_ocnt, runRound_dout, runRound_ocnt]
    simpa [generateRounds] using storeRound_dout_take _ b

theorem generated_runBatch (c : Params) (b : Block) (hp : b.phase = .running) :
    Generated c 17 b (succeed (runBatch c b)) where
  phase := by simp [hp]
  keyedOf := keyedOf_congr c (by simp) (by simp) (by simp) (by simp)
  register := by rw [succeed_r, runBatch_r]; rfl
  words := by
    have hlen := generateBatch_words_length c (Machine.keyedOf c b) b.r
    have htake := toVector_take 85 _ hlen.le
    rw [hlen] at htake
    rw [succeed_dout, succeed_ocnt, runBatch_dout, runBatch_ocnt]
    exact htake

theorem generated_generationCommand (c : Params) (b : Block) (hp : b.phase = .running) :
    Generated c (roundsPerCommand b.mode) b (instrEffect c (generationCommand b.mode) b) := by
  have slow (hm : b.mode ≠ .fast) : Generated c 1 b (roundCommand c b) := by
    rw [roundCommand, if_neg (not_not.2 hp), if_neg hm]
    exact generated_runRound c b hp
  have fast (hm : b.mode = .fast) : Generated c 17 b (batchCommand c b) := by
    rw [batchCommand, if_neg (not_not.2 hp), if_neg (not_not.2 hm)]
    exact generated_runBatch c b hp
  cases hm : b.mode with
  | ref => exact slow (by simp [hm])
  | table => exact slow (by simp [hm])
  | fast => exact fast hm

theorem wellFormed_generationCommand (m : Mode) : (generationCommand m).wellFormed = true := by
  cases m <;> rfl

theorem refill_eq (t : Transform) :
    refill t = .next { t with
      block := mapBlock (instrEffect Config.params (generationCommand t.block.block.mode)) t.block
      queue := doutBytes (instrEffect Config.params (generationCommand t.block.block.mode) t.block.block) } := by
  rw [refill, access_commandEvent _ _ (wellFormed_generationCommand _)]
  rfl

/-! ### The transform, `j` bytes drawn -/

/-- The transform's block has run `m` rounds of the keystream of a key and an IV, of which `j` bytes are drawn and the
others wait in the queue. -/
structure DrawnFrom (key iv : List Word) (m j : Nat) (t : Transform) : Prop where
  phase : t.block.block.phase = .running
  keyedOf : keyedOf Config.params t.block.block = keyedS Config.params (keySchedule Config.params key)
  register : t.block.block.r = keystreamRegister Config.params (keySchedule Config.params key) iv m
  drawn_le : j ≤ 20 * m
  queue : t.queue = (List.range' j (20 * m - j)).map (keystream Config.params key iv)

/-- Whatever the mode, a constructed transform stands before the first round of the keystream. -/
theorem drawnFrom_construct (key iv : List Byte) (pad : Option Padding) (mode : Mode) (s : State) (t : Transform)
    (h : construct key iv pad mode s = .next (.made t)) : DrawnFrom (packWords key) (packWords iv) 0 0 t := by
  obtain ⟨hkey, hiv, hblock, hqueue⟩ := construct_made key iv pad mode s t h
  obtain ⟨-, hwords, hkeyed⟩ := keyReady_presentKey Config.params mode key hkey
  obtain ⟨hphase, hkept, hreg⟩ := presentIv_effect Config.params iv _ hiv
  rw [← hblock] at hphase hkept hreg
  rw [hkeyed, hwords] at hreg
  exact ⟨hphase, hkept.trans hkeyed, hreg, le_rfl, hqueue⟩

/-- With all its bytes drawn, a transform requests the next rounds. -/
theorem DrawnFrom.refill {key iv : List Word} {m : Nat} {t : Transform} (h : DrawnFrom key iv m (20 * m) t) :
    ∃ n t', 0 < n ∧ Machine.refill t = .next t' ∧ DrawnFrom key iv (m + n) (20 * m) t' := by
  obtain ⟨hphase, hkeyed, hreg, -, -⟩ := h
  obtain ⟨gphase, gkeyed, greg, gwords⟩ := generated_generationCommand Config.params t.block.block hphase
  rw [hkeyed, hreg] at greg gwords
  have hpos : 0 < roundsPerCommand t.block.block.mode := by cases t.block.block.mode <;> decide
  refine ⟨_, _, hpos, refill_eq t, gphase, gkeyed.trans hkeyed, ?_, by omega, ?_⟩
  · rw [keystreamRegister_add]
    exact greg
  · have hcount : 20 * (m + roundsPerCommand t.block.block.mode) - 20 * m =
        20 * roundsPerCommand t.block.block.mode := by omega
    rw [hcount, ← serialize_generateRounds, ← gwords]
    rfl

/-- A waiting byte is the next keystream byte. -/
theorem DrawnFrom.queue_eq_cons {key iv : List Word} {m j : Nat} {t : Transform} (h : DrawnFrom key iv m j t)
    (hj : j < 20 * m) : ∃ q, t.queue = keystream Config.params key iv j :: q ∧
      DrawnFrom key iv m (j + 1) { t with queue := q } := by
  obtain ⟨hphase, hkeyed, hreg, -, hqueue⟩ := h
  have hcount : 20 * m - j = 20 * m - (j + 1) + 1 := by omega
  rw [hcount, List.range'_succ, List.map_cons] at hqueue
  exact ⟨_, hqueue, hphase, hkeyed, hreg, hj, rfl⟩

/-- The next byte drawn is the next keystream byte, from the queue or after one refill (R158). -/
theorem DrawnFrom.nextByte {key iv : List Word} {m j : Nat} {t : Transform} (h : DrawnFrom key iv m j t) :
    ∃ m' t', Machine.nextByte t = .next (keystream Config.params key iv j, t') ∧ DrawnFrom key iv m' (j + 1) t' := by
  rcases Nat.lt_or_eq_of_le h.drawn_le with hj | rfl
  · obtain ⟨q, hq, ht'⟩ := h.queue_eq_cons hj
    exact ⟨m, _, by rw [Machine.nextByte, hq], ht'⟩
  · have hempty : t.queue = [] := by simp [h.queue]
    obtain ⟨n, t1, hn, hrefill, h1⟩ := h.refill
    obtain ⟨q, hq, ht'⟩ := h1.queue_eq_cons (by omega)
    refine ⟨m + n, _, ?_, ht'⟩
    simp only [Machine.nextByte, hempty, hrefill, andThen_next, hq]

/-- The next `n` bytes drawn are the next `n` keystream bytes. -/
theorem DrawnFrom.nextBytes {key iv : List Word} {m j : Nat} {t : Transform} (n : Nat) (h : DrawnFrom key iv m j t) :
    ∃ t', Machine.nextBytes n t = .next ((List.range' j n).map (keystream Config.params key iv), t') := by
  induction n generalizing m j t with
  | zero => exact ⟨t, rfl⟩
  | succ n ih =>
    obtain ⟨m', t1, hbyte, h1⟩ := h.nextByte
    obtain ⟨t', hrest⟩ := ih h1
    exact ⟨t', by simp only [Machine.nextBytes, hbyte, andThen_next, hrest, List.range'_succ, List.map_cons]⟩

/-- Settles O53: a constructed transform stands before round 0 (`drawnFrom_construct`), and each byte drawn is the next
of the keystream (`DrawnFrom.nextByte`). -/
theorem transformDrawsKeystream : Obligations.TransformDrawsKeystream := by
  intro key iv pad mode s t n h
  rw [List.range_eq_range']
  exact (drawnFrom_construct key iv pad mode s t h).nextBytes n

end Sys2Proof.Machine
end

section
/-!
What one host event makes of the block, as one relation with a case per shape, on which the statements about every step
rest; before it the fields of the command words that it tells apart.
-/

namespace Sys2Proof.Machine

/-! ### The fields of a command word -/

theorem fieldZero_eq_extractLsb' (v : Word) : fieldZero v = (v.extractLsb' 0 8).toNat := by
  simp [fieldZero, bits, BitVec.extractLsb'_toNat]

theorem fieldMode_eq_extractLsb' (v : Word) : fieldMode v = (v.extractLsb' 8 8).toNat := by
  simp [fieldMode, bits, BitVec.extractLsb'_toNat, Nat.shiftRight_eq_div_pow]

theorem fieldLen_eq_extractLsb' (v : Word) : fieldLen v = (v.extractLsb' 16 8).toNat := by
  simp [fieldLen, bits, BitVec.extractLsb'_toNat, Nat.shiftRight_eq_div_pow]

theorem fieldOpc_eq_extractLsb' (v : Word) : fieldOpc v = (v.extractLsb' 24 8).toNat := by
  simp [fieldOpc, bits, BitVec.extractLsb'_toNat, Nat.shiftRight_eq_div_pow]

/-- A word with `ZERO = 0` is packed from its other fields (30_encoding R70). -/
theorem eq_packCommand_of_fieldZero (v : Word) (h : fieldZero v = 0) :
    v = packCommand (fieldOpc v) (fieldLen v) (fieldMode v) := by
  apply BitVec.eq_of_toNat_eq
  simp only [fieldZero, fieldOpc, fieldLen, fieldMode, bits, packCommand, BitVec.toNat_ofNat] at h ⊢
  omega

theorem decode_eq_zeroize_iff (v : Word) : decode v = .ok .zeroize ↔ v = 0x05000000 := by
  constructor
  · intro h
    obtain ⟨hz, hcases⟩ := decode_ok_cases v .zeroize h
    simp only [reduceCtorEq, and_false, and_true, false_or] at hcases
    obtain ⟨ho, hl, hm⟩ := hcases
    rw [eq_packCommand_of_fieldZero v hz, ho, hl, hm]
    rfl
  · rintro rfl
    rfl

/-- An illegal encoding is refused by the decoder (30_encoding R75). -/
theorem not_illegalEncoding_of_decode (v : Word) (i : Instr) (h : decode v = .ok i) : ¬ illegalEncoding v := by
  obtain ⟨hz, hcases⟩ := decode_ok_cases v i h
  simp only [illegalEncoding, ne_eq, BitVec.toNat_eq, ← fieldZero_eq_extractLsb', ← fieldOpc_eq_extractLsb',
    ← fieldLen_eq_extractLsb', ← fieldMode_eq_extractLsb', BitVec.ofNat_eq_ofNat, BitVec.toNat_ofNat]
  omega

theorem executeEffect_of_illegalEncoding (c : Params) (v : Word) (b : Block) (h : illegalEncoding v) :
    executeEffect c v b = raiseErr .opcode b := by
  cases hd : decode v with
  | ok i => exact absurd h (not_illegalEncoding_of_decode v i hd)
  | error x => simp only [executeEffect, hd]

/-! ### The change of the block by one host event -/

/-- The two accesses that give the block its reset values (10_state R27, R29). -/
def HostEvent.clears (e : HostEvent) : Prop := e = .reset ∨ e = .write 0x00 0x05000000

/-- The host event writes the command word of the instruction `i` to `CMD`. -/
def HostEvent.commands (e : HostEvent) (i : Instr) : Prop := ∃ v, e = .write 0x00 v ∧ decode v = .ok i

/-- Everything one host event can make of the block, with the event that can cause it and what it needs. -/
inductive BlockChange (c : Params) (e : HostEvent) (b : Block) : Block → Prop
  | same : BlockChange c e b b
  | wroteDin (i : Fin 12) (v : Word) : BlockChange c e b (writeDin i v b)
  | failed (code : ErrCode) : BlockChange c e b (raiseErr code b)
  | cleared (he : e.clears) : BlockChange c e b Block.reset
  | passed : BlockChange c e b (succeed b)
  | loadedKey (i : Instr) (mode : Mode) (len : Nat) (he : e.commands i)
      (hi : i = .setkeyRef len ∨ i = .setkeyTable len ∨ i = .setkeyFast len) (hphase : b.phase = .empty)
      (hlen : keyLenLegal len = true) : BlockChange c e b (succeed (loadKey c mode len b))
  | loadedIv (len : Nat) (he : e.commands (.setiv len)) (hphase : b.phase = .keyed) :
      BlockChange c e b (succeed (loadIv c len b))
  | ranRound (hphase : b.phase = .running) (hmode : b.mode ≠ .fast) : BlockChange c e b (succeed (runRound c b))
  | ranBatch (hphase : b.phase = .running) (hmode : b.mode = .fast) : BlockChange c e b (succeed (runBatch c b))

theorem blockChange_eventEffect (c : Params) (e : HostEvent) (b : Block) : BlockChange c e b (eventEffect c e b) := by
  rcases eventEffect_cases c e b with h | ⟨i, v, h⟩ | ⟨code, -, h⟩ | ⟨he, h⟩ | ⟨v, i, he, hd, h⟩ <;> rw [h]
  · exact .same
  · exact .wroteDin i v
  · exact .failed code
  · exact .cleared (.inl he)
  rcases instrEffect_cases c i b with ⟨code, -, -, -, hi⟩ | ⟨rfl, hi⟩ | ⟨-, hi⟩ | ⟨mode, len, hinstr, hp, hl, hi⟩ |
    ⟨len, rfl, hp, -, -, hi⟩ | ⟨-, hp, hm, hi⟩ | ⟨-, hp, hm, hi⟩ <;> rw [hi]
  · exact .failed code
  · exact .cleared (.inr (by rw [he, (decode_eq_zeroize_iff v).1 hd]))
  · exact .passed
  · exact .loadedKey i mode len ⟨v, he, hd⟩ hinstr hp hl
  · exact .loadedIv len ⟨v, he, hd⟩ hp
  · exact .ranRound hp hm
  · exact .ranBatch hp hm

/-- A step leaves the state alone or changes the block as its access does. -/
theorem step_blockChange (s t : State) (h : step s = .next t) :
    t = s ∨ ∃ e es, s.pending = e :: es ∧ BlockChange Config.params e s.block t.block := by
  rcases step_cases s t h with rfl | ⟨e, es, hp, -, hb⟩
  · exact .inl rfl
  · exact .inr ⟨e, es, hp, hb ▸ blockChange_eventEffect _ e s.block⟩

theorem eventEffect_of_clears (c : Params) (e : HostEvent) (b : Block) (h : e.clears) :
    eventEffect c e b = Block.reset := by
  rcases h with rfl | rfl <;> rfl

theorem step_of_clears (s : State) (e : HostEvent) (es : List HostEvent) (hp : s.pending = e :: es) (he : e.clears) :
    ∃ t, step s = .next t ∧ t.block = Block.reset :=
  ⟨_, step_access s e es hp, eventEffect_of_clears Config.params e s.block he⟩

end Sys2Proof.Machine
end

section
/-!
The invariants of 10_state R38: every change of the block keeps them (O29, O30).
-/

namespace Sys2Proof.Machine

/-! ### The key schedule a `SETKEY` leaves -/

theorem dinWords_length (n : Nat) (b : Block) : (dinWords n b).length = min n 12 := by
  simp [dinWords]

theorem wordCount_of_keyLenLegal (len : Nat) (h : keyLenLegal len = true) : 1 ≤ wordCount len ∧ wordCount len ≤ 8 := by
  obtain ⟨hge, hle, -⟩ := (keyLenLegal_iff len).1 h
  rw [wordCount]
  omega

theorem loadKey_kw_val (c : Params) (mode : Mode) (len : Nat) (b : Block) (h : keyLenLegal len = true) :
    (loadKey c mode len b).kw.val = wordCount len := by
  obtain ⟨-, hle⟩ := wordCount_of_keyLenLegal len h
  rw [loadKey_kw, Fin.val_ofNat, Nat.mod_eq_of_lt (by omega)]

/-- The key schedule of the words `SETKEY` read has `KW` words. -/
theorem keySchedule_dinWords_length (c : Params) (len : Nat) (b : Block) (h : keyLenLegal len = true) :
    (keySchedule c (dinWords (wordCount len) b)).length = wordCount len := by
  obtain ⟨-, hle⟩ := wordCount_of_keyLenLegal len h
  rw [keySchedule_length, dinWords_length, Nat.min_eq_left (by omega)]

theorem keyWords_loadKey (c : Params) (mode : Mode) (len : Nat) (b : Block) (h : keyLenLegal len = true) :
    keyWords (loadKey c mode len b) = keySchedule c (dinWords (wordCount len) b) := by
  have hlen := keySchedule_dinWords_length c len b h
  obtain ⟨-, hle⟩ := wordCount_of_keyLenLegal len h
  have htake := toVector_take 8 (keySchedule c (dinWords (wordCount len) b)) (by rwa [hlen])
  rw [hlen] at htake
  rw [keyWords, loadKey_kw_val c mode len b h, loadKey_k, htake]

/-! ### The invariants -/

/-- The clauses on the key depend on the key fields only. -/
theorem KeyLoaded.congr {c : Params} {b b' : Block} (h : KeyLoaded c b) (hk : b'.k = b.k) (hkw : b'.kw = b.kw)
    (ht : b'.t = b.t) (hm : b'.mode = b.mode) : KeyLoaded c b' := by
  obtain ⟨kw_pos, k_upper_zero, t_ref, t_tables⟩ := h
  constructor <;> simpa only [keyWords, hk, hkw, ht, hm]

theorem keyLoaded_loadKey (c : Params) (mode : Mode) (len : Nat) (b : Block) (hclean : EmptyClean b)
    (hlen : keyLenLegal len = true) : KeyLoaded c (loadKey c mode len b) where
  kw_pos := by
    rw [loadKey_kw_val c mode len b hlen]
    exact (wordCount_of_keyLenLegal len hlen).1
  k_upper_zero i hi := by
    rw [loadKey_kw_val c mode len b hlen, ← keySchedule_dinWords_length c len b hlen] at hi
    simp [List.getElem?_eq_none hi]
  t_ref hm := by
    rw [loadKey_mode] at hm
    rw [loadKey_t, hm, ← hclean.t_zero]
    rfl
  t_tables hm := by
    rw [loadKey_mode] at hm
    rw [keyWords_loadKey c mode len b hlen, loadKey_t]
    cases mode with
    | ref => exact absurd rfl hm
    | table => rfl
    | fast => rfl

theorem inv_reset (c : Params) : Inv c Block.reset where
  empty _ := ⟨rfl, rfl, rfl, rfl, rfl, rfl, rfl⟩
  keyed h := by cases h
  running h := by cases h
  fault_err _ := rfl

/-- `DIN`, and an error record with `FAULT` set or `ERR` clear, are free in the invariants. -/
theorem Inv.set_din_err_fault {c : Params} {b : Block} (h : Inv c b) (din : Vector Word 12) (err : ErrCode)
    (fault : Bool) (hf : fault = false → err = .none) :
    Inv c { b with din := din, err := err, fault := fault } where
  empty hp := by
    obtain ⟨hkw, hmode, hocnt, hr, hk, ht, hdout⟩ := h.empty hp
    exact ⟨hkw, hmode, hocnt, hr, hk, ht, hdout⟩
  keyed hp := by
    obtain ⟨hkey, hr, hocnt, hdout⟩ := h.keyed hp
    exact ⟨hkey.congr rfl rfl rfl rfl, hr, hocnt, hdout⟩
  running hp := by
    obtain ⟨hkey, hslow, hfast, hdout⟩ := h.running hp
    exact ⟨hkey.congr rfl rfl rfl rfl, hslow, hfast, hdout⟩
  fault_err := hf

/-- `EMPTY -SETKEY-> KEYED`. -/
theorem Inv.loadKey {c : Params} {b : Block} (h : Inv c b) (mode : Mode) (len : Nat) (hphase : b.phase = .empty)
    (hlen : keyLenLegal len = true) : Inv c (succeed (Machine.loadKey c mode len b)) where
  empty hp := by simp at hp
  keyed _ := by
    have hclean := h.empty hphase
    exact ⟨(keyLoaded_loadKey c mode len b hclean hlen).congr rfl rfl rfl rfl, hclean.r_zero, hclean.ocnt_zero,
      hclean.dout_zero⟩
  running hp := by simp at hp
  fault_err _ := rfl

/-- `KEYED -SETIV-> RUNNING`: nothing is generated yet. -/
theorem Inv.loadIv {c : Params} {b : Block} (h : Inv c b) (len : Nat) (hphase : b.phase = .keyed) :
    Inv c (succeed (Machine.loadIv c len b)) where
  empty hp := by simp at hp
  keyed hp := by simp at hp
  running _ := by
    obtain ⟨hkey, -, hocnt, hdout⟩ := h.keyed hphase
    refine ⟨hkey.congr (by simp) (by simp) (by simp) (by simp), fun _ => .inl ?_, fun _ => .inl ?_, fun _ i _ => ?_⟩
    · rw [succeed_ocnt, loadIv_ocnt, hocnt]
    · rw [succeed_ocnt, loadIv_ocnt, hocnt]
    · rw [succeed_dout, loadIv_dout, hdout]
      simp
  fault_err _ := rfl

/-- A round leaves `DOUT[5..84]` alone (R210). -/
theorem Inv.runRound {c : Params} {b : Block} (h : Inv c b) (hphase : b.phase = .running) (hmode : b.mode ≠ .fast) :
    Inv c (succeed (Machine.runRound c b)) where
  empty hp := by simp [hphase] at hp
  keyed hp := by simp [hphase] at hp
  running _ := by
    obtain ⟨hkey, -, -, hdout⟩ := h.running hphase
    refine ⟨hkey.congr (by simp) (by simp) (by simp) (by simp), fun _ => .inr (by simp), fun hm => ?_, fun _ i hi => ?_⟩
    · exact absurd (by simpa using hm) hmode
    · have hkept := hdout hmode i hi
      simp only [succeed_dout, runRound_dout, storeRound_dout, Fin.getElem_fin, Vector.getElem_set] at hkept ⊢
      rw [if_neg (by omega), if_neg (by omega), if_neg (by omega), if_neg (by omega), if_neg (by omega), hkept]
  fault_err _ := rfl

theorem Inv.runBatch {c : Params} {b : Block} (h : Inv c b) (hphase : b.phase = .running) (hmode : b.mode = .fast) :
    Inv c (succeed (Machine.runBatch c b)) where
  empty hp := by simp [hphase] at hp
  keyed hp := by simp [hphase] at hp
  running _ := by
    have hkey := (h.running hphase).key
    have hfast : (succeed (Machine.runBatch c b)).mode = .fast := by simp [hmode]
    exact ⟨hkey.congr (by simp) (by simp) (by simp) (by simp), fun hm => absurd hfast hm, fun _ => .inr (by simp),
      fun hm => absurd hfast hm⟩
  fault_err _ := rfl

/-- Every change of the block keeps the invariants. -/
theorem BlockChange.inv {c : Params} {e : HostEvent} {b b' : Block} (h : BlockChange c e b b') (hb : Inv c b) :
    Inv c b' := by
  cases h with
  | same => exact hb
  | wroteDin i v => exact hb.set_din_err_fault _ _ _ hb.fault_err
  | failed code => exact hb.set_din_err_fault _ _ _ (fun hf => by cases hf)
  | cleared he => exact inv_reset c
  | passed => exact hb.set_din_err_fault _ _ _ (fun _ => rfl)
  | loadedKey i mode len he hi hphase hlen => exact hb.loadKey mode len hphase hlen
  | loadedIv len he hphase => exact hb.loadIv len hphase
  | ranRound hphase hmode => exact hb.runRound hphase hmode
  | ranBatch hphase hmode => exact hb.runBatch hphase hmode

/-- Settles O29: in phase `EMPTY` every clause reads a reset value. -/
theorem invariantHoldsAtReset : Obligations.InvariantHoldsAtReset := inv_reset

/-- Settles O30: a step changes the block along `BlockChange` only, and each of its cases keeps the invariants. -/
theorem stepKeepsInvariant : Obligations.StepKeepsInvariant := by
  intro s t hinv hstep
  rcases step_blockChange s t hstep with rfl | ⟨e, es, -, hchange⟩
  · exact hinv
  · exact hchange.inv hinv

end Sys2Proof.Machine
end

section
/-!
What else a step keeps: `FAULT` (O19), the phase (O31), the key material and the register (O32).
-/

namespace Sys2Proof.Machine

/-! ### `FAULT` -/

/-- A change that unsets `FAULT` is a reset event or a `ZEROIZE` word. -/
theorem BlockChange.clears_of_fault {c : Params} {e : HostEvent} {b b' : Block} (h : BlockChange c e b b')
    (hf : b.fault = true) (hf' : b'.fault = false) : e.clears := by
  cases h with
  | cleared he => exact he
  | _ => simp [hf] at hf'

/-- A failing instruction sets `FAULT`, a successful one but `ZEROIZE` keeps it (30_encoding R76). -/
theorem instrEffect_fault (c : Params) (i : Instr) (b : Block) :
    ((instrEffect c i b).err = .none →
      (instrEffect c i b).fault = if i = .zeroize then false else b.fault) ∧
    ((instrEffect c i b).err ≠ .none → (instrEffect c i b).fault = true) := by
  rcases instrEffect_cases c i b with ⟨code, hcode, -, -, h⟩ | ⟨rfl, h⟩ | ⟨rfl, h⟩ | ⟨mode, len, hi, -, -, h⟩ |
    ⟨len, rfl, -, -, -, h⟩ | ⟨rfl, -, -, h⟩ | ⟨rfl, -, -, h⟩ <;> rw [h]
  · simp [hcode]
  · simp
  · simp
  · rcases hi with rfl | rfl | rfl <;> simp
  · simp
  · simp
  · simp

theorem portOf_of_unmappedIndex (idx : PortIndex) (h : unmappedIndex idx) : portOf idx = .unmapped := by
  rw [unmappedIndex] at h
  rw [portOf, if_neg (by omega), if_neg (by omega), dif_neg (by omega), dif_neg (by omega)]

/-- Settles O19: what each failure writes, and the one change that unsets `FAULT` (`BlockChange.clears_of_fault`). -/
theorem faultIsSticky : Obligations.FaultIsSticky := by
  refine ⟨fun i s t h => ?_, fun v s hv => ?_, fun idx s hidx => ?_, fun s t hstep hf hf' => ?_⟩
  · rw [exec_eq] at h
    cases h
    exact instrEffect_fault Config.params i s.block
  · refine ⟨_, portWrite_eq 0x00 v s, ?_⟩
    have hcmd : writeEffect Config.params 0x00 v s.block = executeEffect Config.params v s.block := rfl
    rw [mapBlock_block, hcmd, executeEffect_of_illegalEncoding _ _ _ hv]
    exact ⟨rfl, rfl⟩
  · have hport := portOf_of_unmappedIndex idx hidx
    refine ⟨by simp [portRead, hport], by simp [portRead, hport], fun v => ⟨_, portWrite_eq idx v s, ?_⟩⟩
    simp [writeEffect, hport]
  · rcases step_blockChange s t hstep with rfl | ⟨e, es, hp, hchange⟩
    · simp [hf] at hf'
    · rcases hchange.clears_of_fault hf hf' with rfl | rfl
      · exact ⟨es, .inl hp⟩
      · exact ⟨es, .inr hp⟩

/-! ### The phases -/

/-- The phases a change can join (10_state R27). -/
theorem BlockChange.phase {c : Params} {e : HostEvent} {b b' : Block} (h : BlockChange c e b b') :
    b'.phase = b.phase ∨
    (b.phase = .empty ∧ b'.phase = .keyed ∧
      ∃ i len, e.commands i ∧ (i = .setkeyRef len ∨ i = .setkeyTable len ∨ i = .setkeyFast len)) ∨
    (b.phase = .keyed ∧ b'.phase = .running ∧ ∃ len, e.commands (.setiv len)) ∨
    (b' = Block.reset ∧ e.clears) := by
  cases h with
  | same => exact .inl rfl
  | wroteDin i v => exact .inl (writeDin_phase i v b)
  | failed code => exact .inl (raiseErr_phase code b)
  | passed => exact .inl (succeed_phase b)
  | ranRound => exact .inl (runRound_phase c b)
  | ranBatch => exact .inl (runBatch_phase c b)
  | loadedKey i mode len he hi hphase => exact .inr (.inl ⟨hphase, loadKey_phase c mode len b, i, len, he, hi⟩)
  | loadedIv len he hphase => exact .inr (.inr (.inl ⟨hphase, loadIv_phase c len b, len, he⟩))
  | cleared he => exact .inr (.inr (.inr ⟨rfl, he⟩))

/-- Settles O31: the phases that a change of the block can join (`BlockChange.phase`). -/
theorem phaseTransitions : Obligations.PhaseTransitions := by
  refine ⟨fun s t hstep => ?_, fun s es hp => ?_⟩
  · rcases step_blockChange s t hstep with rfl | ⟨e, es, hp, hchange⟩
    · exact .inl rfl
    rcases hchange.phase with h | ⟨h, h', i, len, ⟨v, rfl, hd⟩, hi⟩ | ⟨h, h', len, v, rfl, hd⟩ | ⟨h, rfl | rfl⟩
    · exact .inl h
    · exact .inr (.inl ⟨h, h', v, es, i, len, hp, hd, hi⟩)
    · exact .inr (.inr (.inl ⟨h, h', v, es, len, hp, hd⟩))
    · exact .inr (.inr (.inr ⟨h, es, .inl hp⟩))
    · exact .inr (.inr (.inr ⟨h, es, .inr hp⟩))
  · rcases hp with hp | hp
    · exact step_of_clears s _ es hp (.inl rfl)
    · exact step_of_clears s _ es hp (.inr rfl)

/-! ### The key material and the register -/

theorem stepRegisterTimes_add (c : Params) (m n : Nat) (r : Vector Word 17) :
    stepRegisterTimes c (m + n) r = stepRegisterTimes c n (stepRegisterTimes c m r) := by
  induction m generalizing r with
  | zero => rw [Nat.zero_add]; rfl
  | succ m ih => rw [Nat.succ_add]; exact ih _

/-- A round steps the register five times (46_round_batch R140). -/
theorem generateRound_register (c : Params) (s : Word → Rotation → Word) (r : Vector Word 17) :
    (generateRound c s r).1 = stepRegisterTimes c 5 r := rfl

theorem generateRounds_register (c : Params) (s : Word → Rotation → Word) (n : Nat) (r : Vector Word 17) :
    (generateRounds c s n r).1 = stepRegisterTimes c (5 * n) r := by
  induction n generalizing r with
  | zero => rfl
  | succ n ih =>
    have hsplit : 5 * (n + 1) = 5 + 5 * n := by omega
    rw [hsplit, stepRegisterTimes_add, ← generateRound_register c s, ← ih]
    rfl

/-- A batch is 17 rounds (46_round_batch R142). -/
theorem generateBatch_register (c : Params) (s : Word → Rotation → Word) (r : Vector Word 17) :
    (generateBatch c s r).1 = stepRegisterTimes c 85 r := by
  have hcount : 85 = 5 * 17 := rfl
  rw [hcount, ← generateRounds_register c s]
  rfl

/-- The key material of two blocks is the same (10_state R23). -/
structure SameKey (b b' : Block) : Prop where
  k : b'.k = b.k
  kw : b'.kw = b.kw
  t : b'.t = b.t
  mode : b'.mode = b.mode

/-- What a change that does not clear leaves of a block with a key. -/
theorem BlockChange.sameKey {c : Params} {e : HostEvent} {b b' : Block} (h : BlockChange c e b b')
    (hphase : b.phase ≠ .empty) (he : ¬ e.clears) : SameKey b b' := by
  cases h with
  | same | wroteDin | failed | passed => exact ⟨rfl, rfl, rfl, rfl⟩
  | cleared hclears => exact absurd hclears he
  | loadedKey i mode len _ _ hempty => exact absurd hempty hphase
  | loadedIv len => exact ⟨loadIv_k c len b, loadIv_kw c len b, loadIv_t c len b, loadIv_mode c len b⟩
  | ranRound => exact ⟨runRound_k c b, runRound_kw c b, runRound_t c b, runRound_mode c b⟩
  | ranBatch => exact ⟨runBatch_k c b, runBatch_kw c b, runBatch_t c b, runBatch_mode c b⟩

/-- A change that does not clear leaves a running block running, its register moved by whole rounds. -/
theorem BlockChange.running {c : Params} {e : HostEvent} {b b' : Block} (h : BlockChange c e b b')
    (hphase : b.phase = .running) (he : ¬ e.clears) :
    b'.phase = .running ∧ ∃ n, (n = 0 ∨ n = 5 ∨ n = 85) ∧ b'.r = stepRegisterTimes c n b.r := by
  cases h with
  | same | wroteDin | failed | passed => exact ⟨hphase, 0, .inl rfl, rfl⟩
  | cleared hclears => exact absurd hclears he
  | loadedKey i mode len _ _ hempty => rw [hphase] at hempty; cases hempty
  | loadedIv len _ hkeyed => rw [hphase] at hkeyed; cases hkeyed
  | ranRound =>
    refine ⟨by simp [hphase], 5, .inr (.inl rfl), ?_⟩
    rw [succeed_r, runRound_r, generateRound_register]
  | ranBatch =>
    refine ⟨by simp [hphase], 85, .inr (.inr rfl), ?_⟩
    rw [succeed_r, runBatch_r, generateBatch_register]

/-- Once a key is loaded, a change that does not clear keeps one loaded. -/
theorem BlockChange.phase_ne_empty {c : Params} {e : HostEvent} {b b' : Block} (h : BlockChange c e b b')
    (hphase : b.phase ≠ .empty) (he : ¬ e.clears) : b'.phase ≠ .empty := by
  rcases h.phase with hsame | ⟨-, hkeyed, -⟩ | ⟨-, hrunning, -⟩ | ⟨-, hclears⟩
  · rwa [hsame]
  · simp [hkeyed]
  · simp [hrunning]
  · exact absurd hclears he

/-- Settles O32: a change that does not clear keeps the key (`BlockChange.sameKey`) and moves the register by whole
rounds (`BlockChange.running`). -/
theorem keyMaterialImmutable : Obligations.KeyMaterialImmutable := by
  intro s t hstep hphase hpending
  rcases step_blockChange s t hstep with rfl | ⟨e, es, hp, hchange⟩
  · exact ⟨hphase, rfl, rfl, rfl, rfl, fun hrun => ⟨hrun, 0, .inl rfl, rfl⟩⟩
  have he : ¬ e.clears := by
    rintro (rfl | rfl)
    · exact (hpending es).1 hp
    · exact (hpending es).2 hp
  obtain ⟨hk, hkw, ht, hmode⟩ := hchange.sameKey hphase he
  exact ⟨hchange.phase_ne_empty hphase he, hk, hkw, ht, hmode, fun hrun => hchange.running hrun he⟩

end Sys2Proof.Machine
end

section
/-!
What the host sees of the block and what it can write: the `STATUS` word (O12), the port space (O13) and the reset event
(O28).
-/

namespace Sys2Proof.Machine

/-! ### `STATUS` -/

theorem Phase.code_lt (p : Phase) : p.code < 3 := by cases p <;> decide
theorem Mode.code_lt (m : Mode) : m.code < 3 := by cases m <;> decide
theorem ErrCode.code_lt (e : ErrCode) : e.code < 8 := by cases e <;> decide

/-- The fields of `STATUS` do not overlap (10_state R31). -/
theorem bits_statusWord (b : Block) :
    bits 1 0 (statusWord b) = b.phase.code ∧ bits 3 2 (statusWord b) = b.mode.code ∧
    bits 7 4 (statusWord b) = b.kw.val ∧ bits 11 8 (statusWord b) = b.err.code ∧
    bits 12 12 (statusWord b) = b.fault.toNat ∧ bits 15 13 (statusWord b) = 0 ∧
    bits 22 16 (statusWord b) = b.ocnt.val ∧ bits 31 23 (statusWord b) = 0 := by
  have hphase := b.phase.code_lt
  have hmode := b.mode.code_lt
  have herr := b.err.code_lt
  have hfault : b.fault.toNat < 2 := Bool.toNat_lt _
  have hkw := b.kw.isLt
  have hocnt := b.ocnt.isLt
  simp only [bits, statusWord, BitVec.toNat_ofNat]
  omega

/-- What `OCNT` can be in a state that runs reach. -/
theorem Inv.ocnt {c : Params} {b : Block} (h : Inv c b) : b.ocnt = 0 ∨ b.ocnt = 5 ∨ b.ocnt = 85 := by
  cases hp : b.phase with
  | empty => exact .inl (h.empty hp).ocnt_zero
  | keyed => exact .inl (h.keyed hp).ocnt_zero
  | running =>
    by_cases hm : b.mode = .fast
    · exact ((h.running hp).ocnt_fast hm).imp_right .inr
    · exact ((h.running hp).ocnt_slow hm).imp_right .inl

/-- Settles O12: the fields do not overlap (`bits_statusWord`), and the invariant bounds what they hold. -/
theorem statusWordFields : Obligations.StatusWordFields := by
  refine ⟨fun b => ?_, fun b hinv hphase => ?_, fun b hinv => ?_, fun v s => rfl, rfl⟩
  · obtain ⟨hphase, hmode, hkw, herr, hfault, hlow, hocnt, hhigh⟩ := bits_statusWord b
    refine ⟨hphase.trans ?_, hmode.trans ?_, hkw, herr.trans ?_, hfault.trans ?_, hlow, hocnt, hhigh⟩
    · cases b.phase <;> rfl
    · cases b.mode <;> rfl
    · cases b.err <;> rfl
    · cases b.fault <;> rfl
  · obtain ⟨-, hmode, hkw, -⟩ := bits_statusWord b
    have hclean := hinv.empty hphase
    exact ⟨by rw [hmode, hclean.mode_ref]; rfl, by rw [hkw, hclean.kw_zero]; rfl⟩
  · obtain ⟨-, -, -, -, -, -, hocnt, -⟩ := bits_statusWord b
    rw [hocnt]
    rcases hinv.ocnt with h | h | h <;> rw [h] <;> decide

/-! ### The port space -/

/-- `DIN[i]` is index `0x10 + i` and no other (20_memory R51). -/
theorem toNat_of_portOf_din {idx : PortIndex} {i : Fin 12} (h : portOf idx = .din i) : idx.toNat = 0x10 + i.val := by
  unfold portOf at h
  split_ifs at h with _ _ hdin
  cases h
  simp only
  omega

/-- What a read returns is made of `STATUS` and `DOUT` (20_memory R53). -/
theorem portRead_congr {b b' : Block} (hstatus : statusWord b = statusWord b') (hdout : b.dout = b'.dout)
    (idx : PortIndex) : (portRead idx b).1 = (portRead idx b').1 := by
  unfold portRead
  cases portOf idx with
  | cmd => rfl
  | status => exact hstatus
  | din i => rfl
  | dout i => simp only [readDout, hdout]
  | unmapped => rfl

/-- Everything a write other than a command can do: nothing, one cell of `DIN`, or a failure (20_memory R54). -/
theorem writeEffect_cases (c : Params) (idx : PortIndex) (v : Word) (b : Block) (h : idx ≠ 0x00) :
    writeEffect c idx v b = b ∨
    (∃ i : Fin 12, idx.toNat = 0x10 + i.val ∧ writeEffect c idx v b = writeDin i v b) ∨
    writeEffect c idx v b = raiseErr .addr b := by
  unfold writeEffect
  cases hport : portOf idx with
  | cmd => exact absurd ((portOf_cmd_iff idx).1 hport) h
  | status => exact .inl rfl
  | din i => exact .inr (.inl ⟨i, toNat_of_portOf_din hport, rfl⟩)
  | dout i => exact .inl rfl
  | unmapped => exact .inr (.inr rfl)

/-- Settles O13: reads are made of `STATUS` and `DOUT` (`portRead_congr`), writes that are no command change one cell of
`DIN` or the error record (`writeEffect_cases`). -/
theorem hostSeesStatusAndDoutWritesCmdAndDin : Obligations.HostSeesStatusAndDoutWritesCmdAndDin := by
  refine ⟨fun b b' hstatus hdout => portRead_congr hstatus hdout, fun idx v s t hidx h => ?_⟩
  rw [portWrite_eq] at h
  cases h
  rcases writeEffect_cases Config.params idx v s.block hidx with h | ⟨i, hi, h⟩ | h <;> rw [mapBlock, h]
  · exact ⟨rfl, fun j hj => absurd rfl hj⟩
  · refine ⟨rfl, fun j hj => ?_⟩
    by_cases hij : i = j
    · subst hij
      exact ⟨hi, by simp⟩
    · rw [← Fin.val_inj] at hij
      exact absurd (by simp [hij]) hj
  · exact ⟨rfl, fun j hj => absurd rfl hj⟩

/-- Settles O28: both are the block `Block.reset` with the host's lists left alone. -/
theorem resetEqualsZeroize : Obligations.ResetEqualsZeroize := by
  refine ⟨fun s => ⟨{ s with block := Block.reset }, rfl, rfl, rfl, rfl, rfl, rfl, rfl, rfl, rfl, rfl, rfl, rfl, rfl, rfl⟩,
    fun s es hp => ?_⟩
  rw [step_access s .reset es hp, eventReply, List.append_nil]
  rfl

end Sys2Proof.Machine
end

section
/-!
The pseudo-instructions: the bytes a host packs into `DIN`, the command after them, and its reads (O51).
-/

namespace Sys2Proof.Machine

/-! ### The bytes of the packed words -/

/-- The bytes of a big-endian word: the bits of byte `p` come from the byte shifted to its lane alone (40_word_utilities
R90, R91). -/
theorem byteAt_b2w (b0 b1 b2 b3 : Byte) (p : Fin 4) : byteAt (b2w b0 b1 b2 b3) p = [b0, b1, b2, b3][p] := by
  apply BitVec.eq_of_getLsbD_eq
  intro i hi
  rw [byteAt_getLsbD]
  match p with
  | 0 | 1 | 2 | 3 =>
    simp [b2w]
    grind

/-- Byte `4i + p` of a byte string is byte `p` of its packed word `i` (20_memory R56). -/
theorem getElem?_eq_byteAt_packWords (bytes : List Byte) (i : Nat) (p : Fin 4) (h : 4 * i + 4 ≤ bytes.length) :
    bytes[4 * i + p.val]? = some (byteAt ((packWords bytes).getD i 0) p) := by
  induction bytes using packWords.induct generalizing i with
  | case1 b0 b1 b2 b3 bs ih =>
    cases i with
    | zero =>
      rw [packWords_cons, List.getD_cons_zero, byteAt_b2w]
      match p with
      | 0 | 1 | 2 | 3 => rfl
    | succ i =>
      have hindex : 4 * (i + 1) + p.val = 4 * i + p.val + 1 + 1 + 1 + 1 := by omega
      simp only [List.length_cons] at h
      simp only [hindex, List.getElem?_cons_succ, packWords_cons, List.getD_cons_succ]
      exact ih i (by omega)
  | case2 bs hshort =>
    have hnil : packWords bs = [] := by
      rw [packWords]
      exact hshort
    have hlen := packWords_length bs
    rw [hnil, List.length_nil] at hlen
    omega

/-! ### The pseudo-instructions -/

/-- The words of a byte string written to `DIN`, then a command: the command on the loaded `DIN` (30_encoding R78). -/
theorem accessAll_dinEvents_commandEvent (ws : List Word) (i : Instr) (s : State) (hws : ws.length ≤ 12)
    (hi : i.wellFormed = true) :
    accessAll (dinEvents 0 ws ++ [commandEvent i]) s = exec i (mapBlock (storeDin 0 ws) s) := by
  rw [accessAll_append, accessAll_dinEvents 0 ws s (by omega), andThen_next, accessAll_singleton,
    access_commandEvent i _ hi, exec_eq]

/-- Index `0x80 + i` is `DOUT[i]` (20_memory R51). -/
theorem portOf_dout (i : Fin 85) : portOf (BitVec.ofNat 8 (0x80 + i.val)) = .dout i := by
  have h : (BitVec.ofNat 8 (0x80 + i.val)).toNat = 0x80 + i.val := by
    rw [BitVec.toNat_ofNat]; omega
  simp only [portOf, h]
  rw [if_neg (by omega), if_neg (by omega), dif_neg (by omega), dif_pos (by omega)]
  simp

theorem access_read_dout (i : Fin 85) (s : State) :
    access (.read (BitVec.ofNat 8 (0x80 + i.val))) s =
      .next { s with replies := s.replies ++ [s.block.dout[i]] } := by
  simp only [access, portRead, portOf_dout, readDout]

/-- `rdks n`: the reads of `DOUT[0..n-1]` return its words in order and change nothing of the block. -/
theorem accessAll_rdks (n : Nat) (s : State) (h : n ≤ 85) :
    accessAll (expand (.rdks n)) s = .next { s with replies := s.replies ++ s.block.dout.toList.take n } := by
  rw [expand]
  induction n with
  | zero => simp [accessAll]
  | succ n ih =>
    have htake : s.block.dout.toList.take (n + 1) = s.block.dout.toList.take n ++ [s.block.dout[n]] := by
      rw [List.take_add_one, List.getElem?_eq_getElem (by simpa using h)]
      simp
    rw [List.range_succ, List.map_append, accessAll_append, ih (by omega), andThen_next, List.map_singleton,
      accessAll_singleton, access_read_dout ⟨n, h⟩, htake, ← List.append_assoc]
    rfl

/-- Settles O51: the writes load `DIN` (`accessAll_dinEvents`) with words whose bytes are the host's
(`getElem?_eq_byteAt_packWords`), and the reads return `DOUT` (`accessAll_rdks`). -/
theorem dinWritesLoadPackedBytes : Obligations.DinWritesLoadPackedBytes := by
  refine ⟨fun bytes s hmod hle => ?_, fun n s _ hle => accessAll_rdks n s hle, fun s => rfl⟩
  have hlen := packWords_length bytes
  have hws : (packWords bytes).length ≤ 12 := by omega
  have hfits : lenFits bytes.length = true := decide_eq_true (by omega)
  refine ⟨_, accessAll_dinEvents 0 (packWords bytes) s (by omega), fun i p hi => ?_, fun i hi => ?_, rfl,
    accessAll_dinEvents_commandEvent _ (.setkeyRef bytes.length) s hws hfits,
    accessAll_dinEvents_commandEvent _ (.setkeyTable bytes.length) s hws hfits,
    accessAll_dinEvents_commandEvent _ (.setkeyFast bytes.length) s hws hfits,
    accessAll_dinEvents_commandEvent _ (.setiv bytes.length) s hws hfits⟩
  · rw [getElem?_eq_byteAt_packWords bytes i.val p (by omega), mapBlock_block, Fin.getElem_fin,
      storeDin_din_getElem, if_pos (by omega), Nat.sub_zero]
  · rw [mapBlock_block, Fin.getElem_fin, Fin.getElem_fin, storeDin_din_getElem, if_neg (by omega)]

end Sys2Proof.Machine
end

section
/-!
The port space (20_memory): what an access to each index does (O9, O10, O11), which access a step serves (O8), and the
steps of several instances (O33).
-/

namespace Sys2Proof.Machine

/-! ### The port map -/

/-- Index `0x10 + i` is `DIN[i]`: the converse of `toNat_of_portOf_din`. -/
theorem portOf_of_toNat_din {idx : PortIndex} {i : Fin 12} (h : idx.toNat = 0x10 + i.val) : portOf idx = .din i := by
  rw [← portOf_din i, ← h, BitVec.ofNat_toNat, BitVec.setWidth_eq]

/-- Index `0x80 + i` is `DOUT[i]` (20_memory R51). -/
theorem portOf_of_toNat_dout {idx : PortIndex} {i : Fin 85} (h : idx.toNat = 0x80 + i.val) : portOf idx = .dout i := by
  rw [← portOf_dout i, ← h, BitVec.ofNat_toNat, BitVec.setWidth_eq]

/-- The map names no cell at the unmapped indices, and only there (20_memory R55). -/
theorem portOf_unmapped_iff (idx : PortIndex) : portOf idx = .unmapped ↔ unmappedIndex idx := by
  refine ⟨fun h => ?_, portOf_of_unmappedIndex idx⟩
  unfold portOf at h
  split_ifs at h
  have hlt := idx.isLt
  rw [unmappedIndex]
  omega

/-! ### Reads -/

theorem portRead_of_unmapped {idx : PortIndex} (h : unmappedIndex idx) (b : Block) :
    portRead idx b = (0, raiseErr .addr b) := by
  rw [portRead, portOf_of_unmappedIndex idx h]

/-- "A read of a mapped index changes no state" (20_memory R53). -/
theorem portRead_block_of_mapped {idx : PortIndex} (h : ¬ unmappedIndex idx) (b : Block) : (portRead idx b).2 = b := by
  unfold portRead
  cases hport : portOf idx with
  | cmd => rfl
  | status => rfl
  | din i => rfl
  | dout i => rfl
  | unmapped => exact absurd ((portOf_unmapped_iff idx).1 hport) h

/-- Settles O9: the cell each index names, and what a read returns of it. -/
theorem portReadByIndex : Obligations.PortReadByIndex := by
  refine fun idx b => ⟨?_, ?_, fun hlo hhi => ?_, fun i hi => ?_, fun h => portRead_of_unmapped h b⟩
  · rintro rfl
    rfl
  · rintro rfl
    rfl
  · have hdin : idx.toNat = 0x10 + (⟨idx.toNat - 0x10, by omega⟩ : Fin 12).val := by simp only; omega
    rw [portRead, portOf_of_toNat_din hdin]
  · rw [portRead, portOf_of_toNat_dout hi]
    rfl

/-! ### Writes -/

theorem portWrite_din {idx : PortIndex} {i : Fin 12} (h : idx.toNat = 0x10 + i.val) (v : Word) (s : State) :
    portWrite idx v s = .next (mapBlock (writeDin i v) s) := by
  rw [portWrite, portOf_of_toNat_din h]

/-- `DOUT` is read-only: the write is ignored (20_memory R54). -/
theorem portWrite_dout {idx : PortIndex} {i : Fin 85} (h : idx.toNat = 0x80 + i.val) (v : Word) (s : State) :
    portWrite idx v s = .next s := by
  rw [portWrite, portOf_of_toNat_dout h]

theorem portWrite_of_unmapped {idx : PortIndex} (h : unmappedIndex idx) (v : Word) (s : State) :
    portWrite idx v s = .next (failedWith .addr s) := by
  rw [portWrite, portOf_of_unmappedIndex idx h]
  rfl

/-- Only an unmapped index or a command writes the error record (60_exceptions R183). -/
theorem writeEffect_err_fault_of_mapped (c : Params) {idx : PortIndex} (h : ¬ unmappedIndex idx) (h0 : idx ≠ 0x00)
    (v : Word) (b : Block) : (writeEffect c idx v b).err = b.err ∧ (writeEffect c idx v b).fault = b.fault := by
  unfold writeEffect
  cases hport : portOf idx with
  | cmd => exact absurd ((portOf_cmd_iff idx).1 hport) h0
  | status => exact ⟨rfl, rfl⟩
  | din i => exact ⟨writeDin_err i v b, writeDin_fault i v b⟩
  | dout i => exact ⟨rfl, rfl⟩
  | unmapped => exact absurd ((portOf_unmapped_iff idx).1 hport) h

/-- Settles O10: the cell each index names, and what a write does to it. -/
theorem portWriteByIndex : Obligations.PortWriteByIndex := by
  refine fun idx v s => ⟨?_, ?_, fun i hi => ?_, fun hlo hhi => ?_, fun h => portWrite_of_unmapped h v s⟩
  · rintro rfl
    rfl
  · rintro rfl
    rfl
  · refine ⟨_, portWrite_din hi v s, by simp, fun j hj => ?_, rfl⟩
    have hne : i.val ≠ j.val := fun h => hj (Fin.ext h.symm)
    simp [hne]
  · have hdout : idx.toNat = 0x80 + (⟨idx.toNat - 0x80, by omega⟩ : Fin 85).val := by simp only; omega
    exact portWrite_dout hdout v s

/-- Settles O11: the failure at an unmapped index, and the error record that every other access but a command keeps. -/
theorem unmappedAccessRecordsErrAddr : Obligations.UnmappedAccessRecordsErrAddr := by
  refine ⟨fun idx s h => ⟨portRead_of_unmapped h s.block, fun v => portWrite_of_unmapped h v s⟩, fun idx b h => ?_,
    fun idx v s t h h0 ht => ?_⟩
  · rw [portRead_block_of_mapped h]
    exact ⟨rfl, rfl⟩
  · rw [portWrite_eq] at ht
    cases ht
    exact writeEffect_err_fault_of_mapped Config.params h h0 v s.block

/-! ### Steps -/

/-- Settles O8: `step_idle` with nothing placed, else `step_access` with the first placed access. -/
theorem stepServesFirstAccess : Obligations.StepServesFirstAccess := by
  refine ⟨step_idle, fun s idx es hp => step_access s (.read idx) es hp, fun s idx v es hp => ?_⟩
  refine ⟨_, step_access s (.write idx v) es hp, (portWrite_eq idx v s).trans ?_, rfl, ?_⟩
  · rw [eventReply, List.append_nil]
    rfl
  · exact List.append_nil _

theorem andThen_eq_next_iff {σ τ : Type} (o : Host.Outcome σ Fault Refusal) (f : σ → Host.Outcome τ Fault Refusal)
    (t : τ) : andThen o f = .next t ↔ ∃ s, o = .next s ∧ f s = .next t := by
  cases o with
  | next s => simp
  | fault r => simp [andThen]
  | refused r => simp [andThen]

/-- What a step of an instance answers: that instance's own step, put in its place (20_memory R62). -/
theorem stepInstance_eq_next_iff {i : Nat} {ss : List State} {s : State} (hs : ss[i]? = some s) (ss' : List State) :
    stepInstance i ss = .next ss' ↔ ∃ t, step s = .next t ∧ ss.set i t = ss' := by
  simp only [stepInstance, hs, andThen_eq_next_iff, Host.Outcome.next.injEq]

/-- Settles O33: the step puts the new state at index `i` of the list (`stepInstance_eq_next_iff`), where an entry
stands, and the list keeps its other entries. -/
theorem instancesAreIndependent : Obligations.InstancesAreIndependent := by
  intro i ss ss' s hs hstep
  obtain ⟨t, ht, rfl⟩ := (stepInstance_eq_next_iff hs ss').1 hstep
  obtain ⟨hi, -⟩ := List.getElem?_eq_some_iff.1 hs
  exact ⟨⟨t, ht, List.getElem?_set_self hi⟩, fun j hj => List.getElem?_set_ne hj.symm⟩

end Sys2Proof.Machine
end

section
/-!
The command word (30_encoding): decoder and encoder agree (O1, O2, O5), the illegal encodings (O3), the rows of the
opcode table (O4), and the accesses the statement forms and pseudo-instructions stand for (O50, O60).
-/

namespace Sys2Proof.Machine

/-! ### Decoder and encoder -/

/-- Settles O1: `decode_encode`, one case per command. -/
theorem decodeOfEncode : Obligations.DecodeOfEncode := decode_encode

/-- An accepted word has the fields that the encoder packs for what it decodes to. -/
theorem encode_eq_packCommand_of_decode (v : Word) (i : Instr) (h : decode v = .ok i) :
    encode i = packCommand (fieldOpc v) (fieldLen v) (fieldMode v) := by
  obtain ⟨-, ⟨ho, hl, hm, rfl⟩ | ⟨ho, hm, rfl⟩ | ⟨ho, hm, rfl⟩ | ⟨ho, hm, rfl⟩ | ⟨ho, hm, rfl⟩ | ⟨ho, hl, hm, rfl⟩ |
    ⟨ho, hl, hm, rfl⟩ | ⟨ho, hl, hm, rfl⟩⟩ := decode_ok_cases v i h
  all_goals simp only [encode, *]

/-- The decoder's graph: each command word has one meaning, and each well-formed command one word (30_encoding R72). -/
theorem decode_eq_ok_iff (v : Word) (i : Instr) : decode v = .ok i ↔ i.wellFormed = true ∧ encode i = v := by
  constructor
  · intro h
    have hzero : fieldZero v = 0 := (decode_ok_cases v i h).1
    exact ⟨wellFormed_of_decode v i h,
      (encode_eq_packCommand_of_decode v i h).trans (eq_packCommand_of_fieldZero v hzero).symm⟩
  · rintro ⟨hwf, rfl⟩
    exact decode_encode i hwf

/-- Settles O2: one half of `decode_eq_ok_iff`. -/
theorem encodeOfDecode : Obligations.EncodeOfDecode := fun v i => (decode_eq_ok_iff v i).1

/-- Settles O5: each word is the encoding of its command (`decode_eq_ok_iff`). -/
theorem specWordsDecode : Obligations.SpecWordsDecode := by
  simp only [Obligations.SpecWordsDecode, decode_eq_ok_iff]
  decide

/-! ### The illegal encodings -/

/-- The conditions (a) to (e) of 30_encoding R75 on the decoder's fields. -/
theorem illegalEncoding_iff (v : Word) : illegalEncoding v ↔
    fieldZero v ≠ 0 ∨
    6 ≤ fieldOpc v ∨
    ((fieldOpc v = 0 ∨ fieldOpc v = 3 ∨ fieldOpc v = 4 ∨ fieldOpc v = 5) ∧ (fieldLen v ≠ 0 ∨ fieldMode v ≠ 0)) ∨
    (fieldOpc v = 2 ∧ fieldMode v ≠ 0) ∨
    (fieldOpc v = 1 ∧ 3 ≤ fieldMode v) := by
  simp only [illegalEncoding, ne_eq, BitVec.toNat_eq, ← fieldZero_eq_extractLsb', ← fieldOpc_eq_extractLsb',
    ← fieldLen_eq_extractLsb', ← fieldMode_eq_extractLsb', BitVec.ofNat_eq_ofNat, BitVec.toNat_ofNat]

theorem operandFields_of_decodeBare_error (i : Instr) (v : Word) (x : DecodeReject)
    (h : decodeBare i v = .error x) : fieldLen v ≠ 0 ∨ fieldMode v ≠ 0 := by
  by_contra hbare
  rw [decodeBare, if_neg hbare] at h
  cases h

/-- A word the decoder refuses meets one of the conditions: the decoder's checks are (a) to (e) (30_encoding R76). -/
theorem illegalEncoding_of_decode_error (v : Word) (x : DecodeReject) (h : decode v = .error x) :
    illegalEncoding v := by
  rw [illegalEncoding_iff]
  unfold decode at h
  split at h
  next hz => exact .inl hz
  split at h
  next ho => exact .inr (.inr (.inl ⟨.inl ho, operandFields_of_decodeBare_error _ v x h⟩))
  next ho =>
    split at h
    · cases h
    · cases h
    · cases h
    next h0 h1 h2 =>
      simp only [imp_false] at h0 h1 h2
      exact .inr (.inr (.inr (.inr ⟨ho, by omega⟩)))
  next ho =>
    split at h
    next hm => exact .inr (.inr (.inr (.inl ⟨ho, hm⟩)))
    · cases h
  next ho => exact .inr (.inr (.inl ⟨.inr (.inl ho), operandFields_of_decodeBare_error _ v x h⟩))
  next ho => exact .inr (.inr (.inl ⟨.inr (.inr (.inl ho)), operandFields_of_decodeBare_error _ v x h⟩))
  next ho => exact .inr (.inr (.inl ⟨.inr (.inr (.inr ho)), operandFields_of_decodeBare_error _ v x h⟩))
  next h0 h1 h2 h3 h4 h5 =>
    simp only [imp_false] at h0 h1 h2 h3 h4 h5
    exact .inr (.inl (by omega))

/-- Every word that is no illegal encoding is a command. -/
theorem exists_decode_of_not_illegalEncoding (v : Word) (h : ¬ illegalEncoding v) : ∃ i, decode v = .ok i := by
  cases hd : decode v with
  | ok i => exact ⟨i, rfl⟩
  | error x => exact absurd (illegalEncoding_of_decode_error v x hd) h

/-- Settles O3: the refused words are the illegal encodings, and a write of any other word to `CMD` runs its command. -/
theorem illegalEncodingsRaiseErrOpcode : Obligations.IllegalEncodingsRaiseErrOpcode := by
  refine ⟨fun v s h => ?_, fun v s h => ?_, fun v => ?_⟩
  · have heffect : writeEffect Config.params 0x00 v s.block = raiseErr .opcode s.block :=
      executeEffect_of_illegalEncoding Config.params v s.block h
    rw [portWrite_eq, mapBlock, heffect]
    rfl
  · obtain ⟨i, hi⟩ := exists_decode_of_not_illegalEncoding v h
    exact ⟨i, hi, access_cmd_of_decode v i s hi⟩
  · have hword : encode .nop = 0x00000000 := rfl
    rw [decode_eq_ok_iff, hword]
    exact ⟨fun h => h.2.symm, fun h => ⟨rfl, h.symm⟩⟩

/-! ### The opcode table -/

/-- The mask that clears the `LEN` field clears that field and keeps the others. -/
theorem fields_and_lenMask (v : Word) :
    fieldZero (v &&& 0xFF00FFFF) = fieldZero v ∧ fieldMode (v &&& 0xFF00FFFF) = fieldMode v ∧
    fieldLen (v &&& 0xFF00FFFF) = 0 ∧ fieldOpc (v &&& 0xFF00FFFF) = fieldOpc v := by
  have hones (x : BitVec 8) : x &&& 0xFF = x := BitVec.and_allOnes
  simp only [fieldZero_eq_extractLsb', fieldMode_eq_extractLsb', fieldLen_eq_extractLsb', fieldOpc_eq_extractLsb',
    BitVec.extractLsb'_and]
  exact ⟨congrArg _ (hones _), congrArg _ (hones _), congrArg _ BitVec.and_zero, congrArg _ (hones _)⟩

/-- The words that agree with a pattern outside the `LEN` field are that pattern at every length. -/
theorem and_lenMask_eq_packCommand_iff (v : Word) (opc mode : Nat) (ho : opc < 256) (hm : mode < 256) :
    v &&& 0xFF00FFFF = packCommand opc 0 mode ↔ ∃ len, len < 256 ∧ packCommand opc len mode = v := by
  obtain ⟨hzero, hmode, hlen, hopc⟩ := fields_and_lenMask v
  constructor
  · intro h
    rw [h] at hzero hmode hopc
    rw [Laws.fieldZero_pack] at hzero
    rw [Laws.fieldMode_pack opc 0 mode hm] at hmode
    rw [Laws.fieldOpc_pack opc 0 mode ho (by decide) hm] at hopc
    refine ⟨fieldLen v, fieldLen_lt v, ?_⟩
    rw [hopc, hmode]
    exact (eq_packCommand_of_fieldZero v hzero.symm).symm
  · rintro ⟨len, hl, rfl⟩
    rw [Laws.fieldZero_pack] at hzero
    rw [eq_packCommand_of_fieldZero _ hzero, hopc, hlen, hmode, Laws.fieldOpc_pack opc len mode ho hl hm,
      Laws.fieldMode_pack opc len mode hm]

/-- A row without operand fields accepts its command's one word. -/
theorem accepts_fullMask_iff (i : Instr) (hi : i.wellFormed = true)
    (hmnemonic : ∀ j : Instr, j.mnemonic = i.mnemonic ↔ j = i) (v : Word) :
    OpcodeRow.accepts ⟨i.mnemonic, encode i, 0xFFFFFFFF⟩ v = true ↔
      ∃ j, decode v = .ok j ∧ j.mnemonic = i.mnemonic := by
  have hones : v &&& 0xFFFFFFFF = v := BitVec.and_allOnes
  simp only [OpcodeRow.accepts, hones, beq_iff_eq, decode_eq_ok_iff, hmnemonic]
  constructor
  · rintro rfl
    exact ⟨i, ⟨hi, rfl⟩, rfl⟩
  · rintro ⟨j, ⟨-, hv⟩, rfl⟩
    exact hv.symm

/-- A row with a `LEN` field accepts the words of its command at every length. -/
theorem accepts_lenMask_iff (f : Nat → Instr) (opc mode : Nat) (name : String) (ho : opc < 256) (hm : mode < 256)
    (hencode : ∀ len, encode (f len) = packCommand opc len mode) (hwf : ∀ len, (f len).wellFormed = lenFits len)
    (hmnemonic : ∀ j : Instr, j.mnemonic = name ↔ ∃ len, j = f len) (v : Word) :
    OpcodeRow.accepts ⟨name, packCommand opc 0 mode, 0xFF00FFFF⟩ v = true ↔
      ∃ j, decode v = .ok j ∧ j.mnemonic = name := by
  simp only [OpcodeRow.accepts, beq_iff_eq, decode_eq_ok_iff, hmnemonic,
    and_lenMask_eq_packCommand_iff v opc mode ho hm]
  constructor
  · rintro ⟨len, hl, hv⟩
    exact ⟨f len, ⟨(hwf len).trans (decide_eq_true hl), (hencode len).trans hv⟩, len, rfl⟩
  · rintro ⟨j, ⟨hj, hv⟩, len, rfl⟩
    exact ⟨len, of_decide_eq_true ((hwf len).symm.trans hj), (hencode len).symm.trans hv⟩

/-- Settles O4: a row with the full mask accepts one word, a row with the `LEN` field masked out accepts one per
length, and no two rows share a mnemonic. -/
theorem opcodeTableRowsAgreeWithDecoder : Obligations.OpcodeTableRowsAgreeWithDecoder := by
  intro row hrow v
  simp only [opcodeTable, List.mem_cons, List.not_mem_nil, or_false] at hrow
  obtain rfl | rfl | rfl | rfl | rfl | rfl | rfl | rfl := hrow
  · exact accepts_fullMask_iff .nop rfl (fun j => by cases j <;> simp [Instr.mnemonic]) v
  · exact accepts_lenMask_iff .setkeyRef 1 0 _ (by decide) (by decide) (fun _ => rfl) (fun _ => rfl)
      (fun j => by cases j <;> simp [Instr.mnemonic]) v
  · exact accepts_lenMask_iff .setkeyTable 1 1 _ (by decide) (by decide) (fun _ => rfl) (fun _ => rfl)
      (fun j => by cases j <;> simp [Instr.mnemonic]) v
  · exact accepts_lenMask_iff .setkeyFast 1 2 _ (by decide) (by decide) (fun _ => rfl) (fun _ => rfl)
      (fun j => by cases j <;> simp [Instr.mnemonic]) v
  · exact accepts_lenMask_iff .setiv 2 0 _ (by decide) (by decide) (fun _ => rfl) (fun _ => rfl)
      (fun j => by cases j <;> simp [Instr.mnemonic]) v
  · exact accepts_fullMask_iff .round rfl (fun j => by cases j <;> simp [Instr.mnemonic]) v
  · exact accepts_fullMask_iff .batch rfl (fun j => by cases j <;> simp [Instr.mnemonic]) v
  · exact accepts_fullMask_iff .zeroize rfl (fun j => by cases j <;> simp [Instr.mnemonic]) v

/-! ### The statement forms and pseudo-instructions -/

/-- A command word as the sum of its shifted fields (30_encoding R70). -/
theorem packCommand_eq_shifts (opc len mode : Nat) :
    packCommand opc len mode =
      (BitVec.ofNat 32 opc <<< 24) + (BitVec.ofNat 32 len <<< 16) + (BitVec.ofNat 32 mode <<< 8) := by
  apply BitVec.eq_of_toNat_eq
  simp only [packCommand, BitVec.toNat_add, BitVec.toNat_shiftLeft, BitVec.toNat_ofNat, Nat.shiftLeft_eq]
  omega

theorem commandEvent_setkeyInstr (len : Nat) (mode : Mode) : commandEvent (setkeyInstr len mode) =
    .write 0x00 (0x01000000 + (BitVec.ofNat 32 len <<< 16) + (BitVec.ofNat 32 mode.code <<< 8)) := by
  cases mode with
  | ref => exact congrArg (HostEvent.write 0x00) (packCommand_eq_shifts 1 len 0)
  | table => exact congrArg (HostEvent.write 0x00) (packCommand_eq_shifts 1 len 1)
  | fast => exact congrArg (HostEvent.write 0x00) (packCommand_eq_shifts 1 len 2)

theorem commandEvent_setiv (len : Nat) :
    commandEvent (.setiv len) = .write 0x00 (0x02000000 + (BitVec.ofNat 32 len <<< 16)) :=
  congrArg (HostEvent.write 0x00) ((packCommand_eq_shifts 2 len 0).trans (BitVec.add_zero _))

/-- Settles O50: each form is the one access R77 gives it, a command's as the write of its word. -/
theorem statementFormsExpand : Obligations.StatementFormsExpand := by
  refine ⟨fun _ _ => rfl, fun _ => rfl, rfl, fun len _ => ?_, rfl, rfl, rfl⟩
  have hsetkey (mode : Mode) := congrArg ([·]) (commandEvent_setkeyInstr len mode)
  exact ⟨hsetkey .ref, hsetkey .table, hsetkey .fast, congrArg ([·]) (commandEvent_setiv len)⟩

theorem dinEvents_length (i : Nat) (ws : List Word) : (dinEvents i ws).length = ws.length := by
  induction ws generalizing i with
  | nil => rfl
  | cons w ws ih => rw [dinEvents, List.length_cons, ih, List.length_cons]

/-- Access `j` of the writes from `DIN[i]` on is the write of word `j` to `DIN[i + j]` (30_encoding R78). -/
theorem dinEvents_getElem? (i : Nat) (ws : List Word) (j : Nat) :
    (dinEvents i ws)[j]? = ws[j]?.map (.write (BitVec.ofNat 8 (0x10 + (i + j)))) := by
  induction ws generalizing i j with
  | nil => rfl
  | cons w ws ih =>
    cases j with
    | zero => rfl
    | succ j =>
      have hindex : i + 1 + j = i + (j + 1) := by omega
      rw [dinEvents, List.getElem?_cons_succ, ih, hindex, List.getElem?_cons_succ]

/-- Word `i` of a packed byte string is packed from the bytes `4i` to `4i + 3` (20_memory R56). -/
theorem packWords_getElem? (bytes : List Byte) (i : Nat) (h : i < bytes.length / 4) :
    (packWords bytes)[i]? = some (b2w (bytes.getD (4 * i) 0) (bytes.getD (4 * i + 1) 0)
      (bytes.getD (4 * i + 2) 0) (bytes.getD (4 * i + 3) 0)) := by
  induction bytes using packWords.induct generalizing i with
  | case1 b0 b1 b2 b3 bs ih =>
    cases i with
    | zero => rfl
    | succ i =>
      simp only [List.length_cons] at h
      rw [packWords_cons, List.getElem?_cons_succ, ih i (by omega)]
      rfl
  | case2 bs hshort =>
    have hnil : packWords bs = [] := by
      rw [packWords]
      exact hshort
    rw [← packWords_length, hnil] at h
    exact absurd h (Nat.not_lt_zero i)

/-- Settles O60: the writes of the packed words are `dinEvents`, access by access, and the commands after them those of
`setkey` and `setiv`. -/
theorem pseudoInstructionsExpand : Obligations.PseudoInstructionsExpand := by
  refine ⟨fun bytes _ _ => ?_, fun n _ _ => ⟨?_, fun i hi => ?_⟩, rfl⟩
  · have hldkey (mode : Mode) :=
      congrArg (dinEvents 0 (packWords bytes) ++ [·]) (commandEvent_setkeyInstr bytes.length mode)
    have hldiv := congrArg (dinEvents 0 (packWords bytes) ++ [·]) (commandEvent_setiv bytes.length)
    refine ⟨dinEvents 0 (packWords bytes), ?_, fun i hi => ?_, hldkey .ref, hldkey .table, hldkey .fast, hldiv⟩
    · rw [dinEvents_length, packWords_length]
    · rw [dinEvents_getElem?, packWords_getElem? bytes i hi, Nat.zero_add, BitVec.ofNat_add]
      rfl
  · rw [expand, List.length_map, List.length_range]
  · rw [expand, List.getElem?_map, List.getElem?_range hi, Option.map_some, BitVec.ofNat_add]
    rfl

end Sys2Proof.Machine
end

section
/-!
The word utilities (40_word_utilities): the bits a rotation moves (O34), a word as its bytes in their lanes (O35) and as
four bytes packed (O36), and the byte positions that a rotation permutes (O37).
-/

namespace Sys2Proof.Machine

/-! ### Rotation -/

/-- The shift formula of the rotation (R93), for every amount that it is stated for. -/
theorem rotl_eq_shifts (w : Word) (n : Nat) (h1 : 1 ≤ n) (h31 : n ≤ 31) :
    rotl w n = (w <<< n) ||| (w >>> (32 - n)) := by
  have hmod : n % 32 = n := Nat.mod_eq_of_lt (by omega)
  rw [rotl, hmod, if_neg (by omega)]

/-- Where a rotation puts bit `i` (R93): `n` places up, and a bit that leaves the word at the top comes in again at the
bottom. -/
theorem rotl_getLsbD_add_mod (w : Word) (n i : Nat) (hn : n ≤ 31) (hi : i < 32) :
    (rotl w n).getLsbD ((i + n) % 32) = w.getLsbD i := by
  have hmod : n % 32 = n := Nat.mod_eq_of_lt (by omega)
  rw [rotl_eq_rotateLeft, BitVec.getLsbD_rotateLeft, hmod]
  by_cases hwrap : i + n < 32
  · have hbit : (i + n) % 32 = i + n := Nat.mod_eq_of_lt hwrap
    have hlow : ¬ i + n < n := by omega
    simp [hbit, hlow, hwrap]
  · have hbit : (i + n) % 32 = i + n - 32 := by omega
    have hlow : i + n - 32 < n := by omega
    have hback : 32 - n + (i + n - 32) = i := by omega
    simp [hbit, hlow, hback]

/-- Settles O34: `rotl` at 0, the formula `rotl_eq_shifts`, and the bits it moves (`rotl_getLsbD_add_mod`). -/
theorem rotlMovesBits : Obligations.RotlMovesBits :=
  ⟨fun _ => rfl, rotl_eq_shifts, rotl_getLsbD_add_mod⟩

/-! ### Bytes and lanes -/

/-- Cutting a byte out and putting it back masks the word to that byte's lane (R97). -/
theorem put_byteAt (w : Word) (p : Fin 4) : put (byteAt w p) p = w &&& lane p := by
  apply BitVec.eq_of_getLsbD_eq
  intro i _
  rw [put_getLsbD, byteAt_getLsbD, BitVec.getLsbD_and, lane_getLsbD]
  by_cases hlow : 24 - 8 * p.val ≤ i
  · have hback : 24 - 8 * p.val + (i - (24 - 8 * p.val)) = i := by omega
    have htop : i - (24 - 8 * p.val) < 8 ↔ i < 32 - 8 * p.val := by omega
    simp [hlow, hback, htop, Bool.and_comm]
  · simp [hlow]

/-- The four lanes cover the word (R97). -/
theorem lanes_cover : lane 0 ||| lane 1 ||| lane 2 ||| lane 3 = BitVec.allOnes 32 := by decide

/-- A word is its four bytes in their lanes (R97): each is the word masked to a lane, and the lanes cover the word. -/
theorem eq_or_put_byteAt (w : Word) :
    w = put (byteAt w 0) 0 ||| put (byteAt w 1) 1 ||| put (byteAt w 2) 2 ||| put (byteAt w 3) 3 := by
  simp only [put_byteAt, ← BitVec.and_or_distrib_left, lanes_cover, BitVec.and_allOnes]

/-- The byte at the position of the lane it was put in (R97). -/
theorem byteAt_put_same (b : Byte) (p : Fin 4) : byteAt (put b p) p = b := by
  apply BitVec.eq_of_getLsbD_eq
  intro i hi
  rw [byteAt_getLsbD, put_getLsbD, Nat.add_sub_cancel_left]
  simp [hi]

/-- The other byte positions of a byte in its lane are 0: their bits lie below the lane or above it (R97). -/
theorem byteAt_put_of_ne (b : Byte) {p q : Fin 4} (h : q ≠ p) : byteAt (put b p) q = 0 := by
  apply BitVec.eq_of_getLsbD_eq
  intro i hi
  rw [byteAt_getLsbD, put_getLsbD]
  rcases Nat.lt_or_gt_of_ne (Fin.val_ne_of_ne h) with hlt | hgt
  · have habove : 8 ≤ 24 - 8 * q.val + i - (24 - 8 * p.val) := by omega
    simp [BitVec.getLsbD_of_ge b _ habove]
  · have hbelow : ¬ 24 - 8 * p.val ≤ 24 - 8 * q.val + i := by omega
    simp [hbelow]

/-- Settles O35: `eq_or_put_byteAt`, and the byte read at its own position and at another. -/
theorem lanesPartitionWord : Obligations.LanesPartitionWord := by
  refine ⟨eq_or_put_byteAt, fun b p q => ?_⟩
  split
  case isTrue h => rw [h, byteAt_put_same]
  case isFalse h => exact byteAt_put_of_ne b h

/-! ### Packing and unpacking -/

/-- A packed word is its four bytes in their lanes (R91, R97). -/
theorem b2w_eq_or_put (b0 b1 b2 b3 : Byte) : b2w b0 b1 b2 b3 = put b0 0 ||| put b1 1 ||| put b2 2 ||| put b3 3 := by
  have hlast : put b3 3 = b3.setWidth 32 := BitVec.shiftLeft_zero _
  rw [hlast]
  rfl

/-- A word is packed from its own bytes (R92): packing puts each in its lane. -/
theorem b2w_byteAt (w : Word) : b2w (byteAt w 0) (byteAt w 1) (byteAt w 2) (byteAt w 3) = w := by
  rw [b2w_eq_or_put, ← eq_or_put_byteAt]

/-- The bytes of a packed word are those packed (R92). -/
theorem w2b_b2w (b0 b1 b2 b3 : Byte) : w2b (b2w b0 b1 b2 b3) = [b0, b1, b2, b3] := by
  simp only [w2b, byteAt_b2w]
  rfl

/-- Settles O36: what `w2b` is, and its two round trips `b2w_byteAt` and `w2b_b2w`. -/
theorem wordBytesRoundTrip : Obligations.WordBytesRoundTrip :=
  ⟨fun _ => rfl, b2w_byteAt, w2b_b2w⟩

/-! ### Rotation of byte positions -/

/-- Settles O37: bit `i` of byte `p` of the rotated word is the bit of `w` that `8k` places lower, modulo 32, and that
is bit `i` of byte `(p + k) mod 4` (`rotl_getLsbD_add_mod`). -/
theorem rotationPermutesBytes : Obligations.RotationPermutesBytes := by
  intro w k p
  apply BitVec.eq_of_getLsbD_eq
  intro i hi
  have hmoved : 24 - 8 * p.val + i = (24 - 8 * (p + k).val + i + 8 * k.val) % 32 := by
    rw [Fin.val_add]
    omega
  rw [byteAt_getLsbD, byteAt_getLsbD, hmoved, rotl_getLsbD_add_mod w _ _ (by omega) (by omega)]

end Sys2Proof.Machine
end

section
/-!
FixedS (41_fixed_s R100, R101): each pass undone, the inverse of the four passes (O38), and the key schedule that FixedS
and PHTn derive from a key, which keeps distinct keys apart (O42).
-/

namespace Sys2Proof.Machine

/-! ### One pass -/

/-- What a pass and its inverse have in common: the byte at position `p` becomes `b`, the three others are XORed with
those of `m` (R100, R101). -/
def mixByte (m : Word) (p : Fin 4) (b : Byte) (w : Word) : Word := ((w ^^^ m) &&& ~~~ lane p) ||| put b p

theorem fixedSPass_eq_mixByte (c : Params) (p : Fin 4) (w : Word) :
    fixedSPass c p w =
      mixByte (rotl (c.qbox (c.sbox (byteAt w p))) (8 * p.val)) p (c.sbox (byteAt w p)) w := rfl

theorem fixedSUnpass_eq_mixByte (c : Params) (p : Fin 4) (w : Word) :
    fixedSUnpass c p w = mixByte (rotl (c.qbox (byteAt w p)) (8 * p.val)) p (c.sbox.symm (byteAt w p)) w := rfl

/-- The mask keeps nothing of the old byte, so the byte read is the one put there. -/
@[simp] theorem byteAt_mixByte (m : Word) (p : Fin 4) (b : Byte) (w : Word) : byteAt (mixByte m p b w) p = b := by
  apply BitVec.eq_of_getLsbD_eq
  intro i hi
  have hbyte : 24 - 8 * p.val + i < 32 - 8 * p.val := by omega
  rw [mixByte, byteAt_getLsbD, BitVec.getLsbD_or, BitVec.getLsbD_and, BitVec.getLsbD_not, lane_getLsbD, put_getLsbD,
    Nat.add_sub_cancel_left]
  simp [hi, hbyte]

/-- A byte in its lane has nothing outside that lane (R97). -/
theorem put_and_lane (b : Byte) (p : Fin 4) : put b p &&& lane p = put b p := by
  rw [← put_byteAt, byteAt_put_same]

/-- Mixing again with the same word `m` cancels the XOR outside the lane, and putting the old byte back restores the
lane. -/
theorem mixByte_byteAt_mixByte (m : Word) (p : Fin 4) (b : Byte) (w : Word) :
    mixByte m p (byteAt w p) (mixByte m p b w) = w := by
  rw [mixByte, mixByte, put_byteAt, ← put_and_lane b p]
  apply BitVec.eq_of_getElem_eq
  intro i hi
  cases hlane : (lane p)[i] with
  | true => simp [hlane]
  | false => simp [hlane]

/-- A pass leaves `b = SBOX[...]` in its lane, from which the inverse finds the same `QBOX` word and the old byte
(R101). -/
theorem fixedSUnpass_fixedSPass (c : Params) (p : Fin 4) (w : Word) : fixedSUnpass c p (fixedSPass c p w) = w := by
  rw [fixedSUnpass_eq_mixByte, fixedSPass_eq_mixByte, byteAt_mixByte, Equiv.symm_apply_apply, mixByte_byteAt_mixByte]

/-- The inverse pass leaves `SBOX^-1[b]` in its lane, from which the pass finds `b` again (R101). -/
theorem fixedSPass_fixedSUnpass (c : Params) (p : Fin 4) (w : Word) : fixedSPass c p (fixedSUnpass c p w) = w := by
  rw [fixedSPass_eq_mixByte, fixedSUnpass_eq_mixByte, byteAt_mixByte, Equiv.apply_symm_apply, mixByte_byteAt_mixByte]

/-! ### The four passes -/

theorem fixedSInverse_fixedS (c : Params) : Function.LeftInverse (fixedSInverse c) (fixedS c) := by
  intro w
  simp only [fixedSInverse, fixedS, fixedSUnpass_fixedSPass]

theorem fixedS_fixedSInverse (c : Params) : Function.RightInverse (fixedSInverse c) (fixedS c) := by
  intro w
  simp only [fixedSInverse, fixedS, fixedSPass_fixedSUnpass]

theorem fixedS_injective (c : Params) : Function.Injective (fixedS c) := (fixedSInverse_fixedS c).injective

/-- Settles O38: the passes are undone one by one, from the last to the first and from the first to the last. -/
theorem fixedSBijective : Obligations.FixedSBijective := fun c =>
  ⟨fixedSInverse_fixedS c, fixedS_fixedSInverse c, fixedS_injective c, (fixedS_fixedSInverse c).surjective⟩

/-! ### The key schedule -/

/-- `PHTn` of a sequence with last word `x` (R121). -/
theorem phtN_concat (ws : List Word) (x : Word) :
    phtN (ws ++ [x]) = ws.map (· + (x + sumWords ws)) ++ [x + sumWords ws] := by
  simp [phtN]

/-- The inverse of `PHTn` on a sequence with last word `x` (R122). -/
theorem phtNInverse_concat (ws : List Word) (x : Word) :
    phtNInverse (ws ++ [x]) = ws.map (· - x) ++ [x - sumWords (ws.map (· - x))] := by
  simp [phtNInverse]

/-- The inverse takes the new last word off the others, and then their sum off it (R122). -/
theorem phtNInverse_phtN : Function.LeftInverse phtNInverse phtN := by
  intro ws
  cases ws using List.reverseRecOn with
  | nil => rfl
  | append_singleton ws x =>
    have hfront : (ws.map (· + (x + sumWords ws))).map (· - (x + sumWords ws)) = ws := by
      simp [Function.comp_def]
    rw [phtN_concat, phtNInverse_concat, hfront, BitVec.add_sub_cancel]

/-- Settles O42: the key schedule is `PHTn` after FixedS on each word, and both are injective (R101, R122). -/
theorem keyScheduleInjective : Obligations.KeyScheduleInjective := fun c _ _ _ h =>
  (fixedS_injective c).list_map (phtNInverse_phtN.injective h)

end Sys2Proof.Machine
end

section
/-!
The keyed tables: the two forms of KeyedS agree (O39), a `SETKEY` that completes loads the key schedule and its tables
(O23), and so a batch gives the keystream of its 17 rounds (O49).
-/

namespace Sys2Proof.Machine

/-- Settles O39: the loop of the direct form, at one byte position, is the loop of the table build
(`keyedST_buildTables`). -/
theorem keyedSTableFormEqualsDirectForm : Obligations.KeyedSTableFormEqualsDirectForm := by
  intro c ks w r
  rw [keyedST_buildTables]

/-! ### A `SETKEY` that completes -/

/-- `SETKEY` in phase `EMPTY` with a legal length passes its checks, in every mode (R126). -/
theorem exec_setkeyInstr_of_legal (mode : Mode) (len : Nat) (s : State) (hphase : s.block.phase = .empty)
    (hlen : keyLenLegal len = true) :
    exec (setkeyInstr len mode) s = .next (mapBlock (fun b => succeed (loadKey Config.params mode len b)) s) := by
  rw [exec_eq, instrEffect_setkeyInstr, mapBlock]
  rcases setkeyCommand_cases Config.params mode len s.block with ⟨hp, -⟩ | ⟨-, hl, -⟩ | ⟨-, -, h⟩
  · exact absurd hphase hp
  · exact absurd (hl.symm.trans hlen) (by decide)
  · rw [h, mapBlock]

/-- The key words below `KW` are those of the key schedule (R125). -/
theorem keySchedule_getElem?_eq_loadKey_k (c : Params) (mode : Mode) (len : Nat) (b : Block)
    (hlen : keyLenLegal len = true) (i : Fin 8) (hi : i.val < wordCount len) :
    (keySchedule c (dinWords (wordCount len) b))[i.val]? = some (loadKey c mode len b).k[i] := by
  rw [← keySchedule_dinWords_length c len b hlen] at hi
  simp [List.getElem?_eq_getElem hi]

/-- The key words from `KW` on are 0 (10_state R23). -/
theorem loadKey_k_of_wordCount_le (c : Params) (mode : Mode) (len : Nat) (b : Block)
    (hlen : keyLenLegal len = true) (i : Fin 8) (hi : wordCount len ≤ i.val) : (loadKey c mode len b).k[i] = 0 := by
  rw [← keySchedule_dinWords_length c len b hlen] at hi
  simp [List.getElem?_eq_none hi]

/-- In `TABLE` and `FAST` the tables are built from the key schedule just loaded (R107, R126). -/
theorem loadKey_t_eq_buildTables (c : Params) (mode : Mode) (len : Nat) (b : Block) (hmode : mode ≠ .ref)
    (hlen : keyLenLegal len = true) :
    (loadKey c mode len b).t = buildTables c (keyWords (loadKey c mode len b)) := by
  rw [keyWords_loadKey c mode len b hlen, loadKey_t]
  cases mode with
  | ref => exact absurd rfl hmode
  | table => rfl
  | fast => rfl

/-- Settles O23: both commands pass their checks (`exec_setkeyInstr_of_legal`) and leave what `loadKey` does, with the
tables of `loadKey_t_eq_buildTables`, read through `tableAt_buildTables`. -/
theorem setkeyTableAndFastBuildTables : Obligations.SetkeyTableAndFastBuildTables := by
  intro len s hphase hge hle hmod
  have hlen : keyLenLegal len = true := (keyLenLegal_iff len).2 ⟨hge, hle, hmod⟩
  have exec_table := exec_setkeyInstr_of_legal .table len s hphase hlen
  have exec_fast := exec_setkeyInstr_of_legal .fast len s hphase hlen
  have kw_eq := loadKey_kw_val Config.params .table len s.block hlen
  have k_eq := keySchedule_getElem?_eq_loadKey_k Config.params .table len s.block hlen
  have k_upper := loadKey_k_of_wordCount_le Config.params .table len s.block hlen
  have t_eq (p : Fin 4) (x : Byte) : tableAt (loadKey Config.params .table len s.block).t p x =
      tableEntry Config.params (keyWords (loadKey Config.params .table len s.block)) p x := by
    rw [loadKey_t_eq_buildTables Config.params .table len s.block (by decide) hlen, tableAt_buildTables]
  have din_eq (i : Fin 12) : (loadKey Config.params .table len s.block).din[i] = 0 := by simp
  exact ⟨_, _, exec_table, exec_fast, rfl, rfl, rfl, kw_eq, k_eq, k_upper, t_eq, din_eq, rfl,
    rfl, rfl, rfl, rfl, rfl, rfl⟩

/-! ### Rounds and batches -/

/-- The outputs of `m + n` rounds: those of `m`, then those of `n` from the register the first left. -/
theorem generateRounds_add_outputs (c : Params) (s : Word → Rotation → Word) (m n : Nat) (r : Vector Word 17) :
    (generateRounds c s (m + n) r).2 =
      (generateRounds c s m r).2 ++ (generateRounds c s n (generateRounds c s m r).1).2 := by
  induction m generalizing r with
  | zero => rw [Nat.zero_add]; rfl
  | succ m ih => rw [Nat.succ_add]; exact congrArg (List.cons _) (ih _)

theorem flatMap_words_length (vs : List Five) : (vs.flatMap Five.words).length = 5 * vs.length := by
  induction vs with
  | nil => rfl
  | cons v vs ih =>
    have hv : v.words.length = 5 := rfl
    rw [List.flatMap_cons, List.length_append, List.length_cons, hv, ih]
    omega

/-- A generation command leaves the mode alone (R141, R143). -/
theorem instrEffect_generationCommand_mode (c : Params) (m : Mode) (b : Block) :
    (instrEffect c (generationCommand m) b).mode = b.mode := by
  have round_mode : (roundCommand c b).mode = b.mode := by
    rcases roundCommand_cases c b with ⟨-, h⟩ | ⟨-, -, h⟩ | ⟨-, -, h⟩ <;> simp [h]
  have batch_mode : (batchCommand c b).mode = b.mode := by
    rcases batchCommand_cases c b with ⟨-, h⟩ | ⟨-, -, h⟩ | ⟨-, -, h⟩ <;> simp [h]
  cases m with
  | ref => exact round_mode
  | table => exact round_mode
  | fast => exact batch_mode

/-- `m` generation commands of the mode of a running block give the words and the register of all their rounds. -/
theorem generateWith_generationCommand (m : Nat) (s : State) (hphase : s.block.phase = .running) :
    ∃ u, generateWith (generationCommand s.block.mode) m s =
        .next ((generateRounds Config.params (keyedOf Config.params s.block) (roundsPerCommand s.block.mode * m)
          s.block.r).2.flatMap Five.words, u) ∧
      u.block.r = (generateRounds Config.params (keyedOf Config.params s.block) (roundsPerCommand s.block.mode * m)
        s.block.r).1 := by
  induction m generalizing s with
  | zero => exact ⟨s, rfl, rfl⟩
  | succ m ih =>
    obtain ⟨gphase, gkeyed, gregister, gwords⟩ := generated_generationCommand Config.params s.block hphase
    have gmode := instrEffect_generationCommand_mode Config.params s.block.mode s.block
    obtain ⟨u, hu, hr⟩ := ih (mapBlock (instrEffect Config.params (generationCommand s.block.mode)) s) gphase
    rw [mapBlock_block, gmode, gkeyed, gregister] at hu hr
    have hsplit : roundsPerCommand s.block.mode * (m + 1) =
        roundsPerCommand s.block.mode + roundsPerCommand s.block.mode * m := by rw [Nat.mul_succ, Nat.add_comm]
    refine ⟨u, ?_, ?_⟩
    · rw [generateWith, exec_eq, andThen_next, hu, andThen_next, mapBlock_block, gwords, hsplit,
        generateRounds_add_outputs, List.flatMap_append]
    · rw [hr, hsplit, generateRounds_add_register]

/-! ### Two instances of one key and IV -/

theorem presentKey_mode (c : Params) (mode : Mode) (key : List Byte) (b : Block)
    (h : (presentKey c mode key b).err = .none) : (presentKey c mode key b).mode = mode := by
  rw [presentKey] at h ⊢
  rcases setkeyCommand_cases c mode (hostLen key) (storeDin 0 ((packWords key).take 12) b) with
    ⟨-, he⟩ | ⟨-, -, he⟩ | ⟨-, -, he⟩
  · rw [he] at h; cases h
  · rw [he] at h; cases h
  · rw [he]; rfl

theorem presentIv_mode (c : Params) (iv : List Byte) (b : Block) : (presentIv c iv b).mode = b.mode := by
  rw [presentIv]
  rcases setivCommand_cases c (hostLen iv) (storeDin 0 ((packWords iv).take 12) b) with
    ⟨-, he⟩ | ⟨-, -, he⟩ | ⟨-, -, -, he⟩ | ⟨-, -, -, he⟩ <;> simp [he]

/-- The block of a constructed transform is in the mode it was constructed in (R157). -/
theorem construct_mode (key iv : List Byte) (pad : Option Padding) (mode : Mode) (s : State) (t : Transform)
    (h : construct key iv pad mode s = .next (.made t)) : t.block.block.mode = mode := by
  obtain ⟨hkey, -, hblock, -⟩ := construct_made key iv pad mode s t h
  rw [hblock, presentIv_mode, presentKey_mode _ _ _ _ hkey]

/-- What `m` generation commands of a constructed transform give: rounds on the direct form of KeyedS from the register
of key and IV, whatever the mode. -/
theorem generateWith_construct (key iv : List Byte) (pad : Option Padding) (mode : Mode) (s : State) (t : Transform)
    (m : Nat) (h : construct key iv pad mode s = .next (.made t)) :
    ∃ u, generateWith (generationCommand mode) m t.block =
        .next ((generateRounds Config.params (keyedS Config.params (keySchedule Config.params (packWords key)))
          (roundsPerCommand mode * m)
          (keystreamRegister Config.params (keySchedule Config.params (packWords key)) (packWords iv) 0)).2.flatMap
            Five.words, u) ∧
      u.block.r = keystreamRegister Config.params (keySchedule Config.params (packWords key)) (packWords iv)
        (roundsPerCommand mode * m) := by
  have hstart := drawnFrom_construct key iv pad mode s t h
  have hrun := generateWith_generationCommand m t.block hstart.phase
  rwa [construct_mode key iv pad mode s t h, hstart.keyedOf, hstart.register] at hrun

/-- Settles O49: by `generateWith_construct` both instances run `17 * m` rounds of the one keystream, the first with one
round per command, the second with 17. -/
theorem batchesEqualRounds : Obligations.BatchesEqualRounds := by
  intro key iv pad mode sA sB tA tB m hmode hA hB
  obtain ⟨uA, hwordsA, hregA⟩ := generateWith_construct key iv pad mode sA tA (17 * m) hA
  obtain ⟨uB, hwordsB, hregB⟩ := generateWith_construct key iv pad .fast sB tB m hB
  obtain ⟨hround, hone⟩ : generationCommand mode = .round ∧ roundsPerCommand mode = 1 := by
    cases mode with
    | ref => exact ⟨rfl, rfl⟩
    | table => exact ⟨rfl, rfl⟩
    | fast => exact absurd rfl hmode
  rw [hround, hone, Nat.one_mul] at hwordsA
  rw [hone, Nat.one_mul] at hregA
  refine ⟨_, uA, uB, hwordsA, hwordsB, ?_, hregA.trans hregB.symm⟩
  rw [flatMap_words_length, generateRounds_outputs_length]
  omega

end Sys2Proof.Machine
end

section
/-!
The register step (43_register_step): what it does to each word (O44), when it is linear (O45), its rolling-offset form
(O46), and the batch with the constant slots of that form (O48).
-/

namespace Sys2Proof.Machine

/-! ### The shifting form -/

theorem stepRegister_getElem_of_lt (c : Params) (r : Vector Word 17) (i : Nat) (h : i < 16) :
    (stepRegister c r)[i] = r[i + 1] := by
  simp [stepRegister, h]

theorem stepRegister_getElem_sixteen (c : Params) (r : Vector Word 17) :
    (stepRegister c r)[16] = newWord c r[0] r[4] r[15] := by
  simp [stepRegister]

/-- The shift and the new word determine the register after a step (R115). -/
theorem eq_stepRegister (c : Params) (r r' : Vector Word 17)
    (hshift : ∀ (i : Nat) (h : i < 16), r'[i] = r[i + 1]) (hnew : r'[16] = newWord c r[0] r[4] r[15]) :
    r' = stepRegister c r := by
  ext1 i hi
  rcases Nat.lt_succ_iff_lt_or_eq.1 hi with h | rfl
  · rw [hshift i h, stepRegister_getElem_of_lt c r i h]
  · rw [hnew, stepRegister_getElem_sixteen]

theorem top_eq_ushiftRight (w : Word) : top w = (w >>> 24).setWidth 8 := by
  refine BitVec.eq_of_getLsbD_eq fun i hi => ?_
  simp [top, byteAt_getLsbD, -BitVec.getLsbD_eq_getElem, hi]

/-- Settles O44: the two halves of the definition, the new word with its shifts written out. -/
theorem stepShiftsRegister : Obligations.StepShiftsRegister := by
  intro c r
  refine ⟨fun i => stepRegister_getElem_of_lt c r i i.isLt, ?_⟩
  rw [stepRegister_getElem_sixteen, newWord, shl8, top_eq_ushiftRight]

/-! ### Linearity -/

theorem top_xor (v w : Word) : top (v ^^^ w) = top v ^^^ top w := by
  refine BitVec.eq_of_getLsbD_eq fun i hi => ?_
  simp [top, byteAt_getLsbD, -BitVec.getLsbD_eq_getElem, hi]

theorem shl8_xor (v w : Word) : shl8 (v ^^^ w) = shl8 v ^^^ shl8 w := BitVec.shiftLeft_xor_distrib v w 8

/-- With `MULTAB` linear, so is the new word: its other three terms always are. -/
theorem newWord_xor (c : Params) (hlin : ∀ x y : Byte, c.multab (x ^^^ y) = c.multab x ^^^ c.multab y)
    (v0 v4 v15 w0 w4 w15 : Word) :
    newWord c (v0 ^^^ w0) (v4 ^^^ w4) (v15 ^^^ w15) = newWord c v0 v4 v15 ^^^ newWord c w0 w4 w15 := by
  simp only [newWord, top_xor, shl8_xor, hlin]
  ac_rfl

/-- A register whose one nonzero byte is the index of `MULTAB`. -/
def topOnly (x : Byte) : Vector Word 17 := Vector.ofFn fun i : Fin 17 => if i = 0 then put x 0 else 0

theorem put_xor (x y : Byte) (p : Fin 4) : put (x ^^^ y) p = put x p ^^^ put y p := by
  refine BitVec.eq_of_getLsbD_eq fun i hi => ?_
  simp only [BitVec.getLsbD_xor, put_getLsbD]
  cases decide (24 - 8 * p.val ≤ i) <;> simp

theorem topOnly_xor (x y : Byte) :
    topOnly (x ^^^ y) = Vector.ofFn fun i : Fin 17 => (topOnly x)[i] ^^^ (topOnly y)[i] := by
  ext1 i hi
  by_cases h : i = 0 <;> simp [topOnly, h, put_xor, ← Fin.val_eq_zero_iff]

/-- The top byte is lost in the shift (40_word_utilities R95). -/
theorem shl8_put_zero (x : Byte) : shl8 (put x 0) = 0 := by
  rw [shl8, put, ← BitVec.shiftLeft_add]
  exact BitVec.shiftLeft_eq_zero (by decide)

/-- A step of such a register reads `MULTAB` off at word 16. -/
theorem stepRegister_topOnly (c : Params) (x : Byte) : (stepRegister c (topOnly x))[16] = c.multab x := by
  have htop : top (put x 0) = x := byteAt_put_same x 0
  simp [stepRegister_getElem_sixteen, topOnly, newWord, shl8_put_zero, htop]

/-- Settles O45: a linear step is linear on the registers `topOnly x`, where its word 16 is `MULTAB[x]`; conversely only
word 16 is not a copy, and it is linear with `MULTAB` (`newWord_xor`). -/
theorem stepLinearIffMultabLinear : Obligations.StepLinearIffMultabLinear := by
  intro c
  constructor
  · intro hstep x y
    have h16 := congrArg (fun r : Vector Word 17 => r[16]) (hstep (topOnly x) (topOnly y))
    rw [← topOnly_xor] at h16
    simpa [stepRegister_topOnly] using h16
  · intro hlin r r'
    refine (eq_stepRegister c _ _ (fun i h => ?_) ?_).symm
    · simp [stepRegister_getElem_of_lt c _ i h]
    · simp [stepRegister_getElem_sixteen, newWord_xor c hlin]

/-! ### The rolling-offset form -/

theorem offsetLogical_getElem (q : OffsetReg) (i : Nat) (h : i < 17) :
    (offsetLogical q)[i] = offsetAt q ⟨i, h⟩ := by
  simp [offsetLogical]

theorem offsetLogical_zero (p : Vector Word 17) : offsetLogical { p := p, z := 0 } = p := by
  ext1 i hi
  simp [offsetLogical_getElem, offsetAt]

/-- A slot but that of the old logical word 0 keeps its word, now one offset nearer to the front (R116). -/
theorem offsetAt_offsetStep_of_ne (c : Params) (q : OffsetReg) (o : Fin 17) (h : o + 1 ≠ 0) :
    offsetAt (offsetStep c q) o = offsetAt q (o + 1) := by
  have hslot : q.z + 1 + o = q.z + (o + 1) := by rw [add_assoc, add_comm 1 o]
  have hne : q.z ≠ q.z + (o + 1) := fun he => h (left_eq_add.1 he)
  simp only [offsetAt, offsetStep, hslot, Fin.getElem_fin]
  exact Vector.getElem_set_ne _ _ (Fin.val_ne_of_ne hne)

/-- The slot written becomes the last of the logical register (R116). -/
theorem offsetAt_offsetStep_sixteen (c : Params) (q : OffsetReg) :
    offsetAt (offsetStep c q) 16 = newWord c (offsetAt q 0) (offsetAt q 4) (offsetAt q 15) := by
  have hslot : q.z + 1 + 16 = q.z := by rw [add_assoc]; exact add_zero q.z
  simp [offsetAt, offsetStep, hslot]

/-- One step of the offset form is one step of the register it represents. -/
theorem offsetLogical_offsetStep (c : Params) (q : OffsetReg) :
    offsetLogical (offsetStep c q) = stepRegister c (offsetLogical q) := by
  refine eq_stepRegister c _ _ (fun i h => ?_) ?_
  · have hsucc : (⟨i, by omega⟩ : Fin 17) + 1 = ⟨i + 1, by omega⟩ := by
      rw [Fin.ext_iff, Fin.val_add]
      exact Nat.mod_eq_of_lt (show i + 1 < 17 by omega)
    have hne : (⟨i, by omega⟩ : Fin 17) + 1 ≠ 0 := by simp [hsucc, Fin.ext_iff]
    rw [offsetLogical_getElem, offsetLogical_getElem, offsetAt_offsetStep_of_ne c q _ hne, hsucc]
  · simp only [offsetLogical_getElem]
    exact offsetAt_offsetStep_sixteen c q

theorem offsetLogical_iterate_offsetStep (c : Params) (n : Nat) (q : OffsetReg) :
    offsetLogical ((offsetStep c)^[n] q) = stepRegisterTimes c n (offsetLogical q) := by
  induction n generalizing q with
  | zero => rfl
  | succ n ih => rw [Function.iterate_succ_apply, ih, offsetLogical_offsetStep, stepRegisterTimes]

theorem finOfNat_add (m n : Nat) : Fin.ofNat 17 (m + n) = Fin.ofNat 17 m + Fin.ofNat 17 n := by
  simp [Fin.ext_iff, Fin.val_add]

@[simp] theorem offsetStep_z (c : Params) (q : OffsetReg) : (offsetStep c q).z = q.z + 1 := rfl

theorem offsetStep_iterate_z (c : Params) (n : Nat) (q : OffsetReg) :
    ((offsetStep c)^[n] q).z = q.z + Fin.ofNat 17 n := by
  induction n with
  | zero => exact (add_zero q.z).symm
  | succ n ih =>
    rw [Function.iterate_succ_apply', offsetStep_z, ih, add_assoc, finOfNat_add]
    rfl

/-- Settles O46: `offsetLogical_offsetStep` at every step, and the zero offset counts the steps modulo 17. -/
theorem offsetFormRefinesShiftingForm : Obligations.OffsetFormRefinesShiftingForm := by
  intro c q n
  refine ⟨offsetLogical_iterate_offsetStep c n q, ?_⟩
  have hmultiple : Fin.ofNat 17 (17 * n) = 0 := by simp [Fin.ext_iff]
  rw [offsetStep_iterate_z, hmultiple, add_zero]

/-! ### The batch with constant slots -/

theorem offsetExtractFirst_eq (q : OffsetReg) : offsetExtractFirst q = extractFirst (offsetLogical q) := by
  simp [offsetExtractFirst, extractFirst, offsetLogical_getElem]

theorem offsetExtractSecond_eq (q : OffsetReg) : offsetExtractSecond q = extractSecond (offsetLogical q) := by
  simp [offsetExtractSecond, extractSecond, offsetLogical_getElem]

/-- A round on the offset form is the round of the register it represents (R140 with R116, R117). -/
theorem generateRound_offsetLogical (c : Params) (s : Word → Rotation → Word) (q : OffsetReg) :
    generateRound c s (offsetLogical q) = (offsetLogical (offsetRound c s q).1, (offsetRound c s q).2) := by
  simp only [generateRound, offsetRound, stepRegisterTimes, offsetExtractFirst_eq, offsetExtractSecond_eq,
    offsetLogical_offsetStep]

/-- The offset form whose zero offset stands `k` steps after slot 0 (R144). -/
def atSlot (k : Nat) (p : Vector Word 17) : OffsetReg := { p := p, z := Fin.ofNat 17 k }

theorem offsetAt_atSlot (k : Nat) (p : Vector Word 17) (o : Nat) :
    offsetAt (atSlot k p) (Fin.ofNat 17 o) = p[Fin.ofNat 17 (k + o)] := by
  simp only [offsetAt, atSlot, finOfNat_add]

theorem offsetStep_atSlot (c : Params) (k : Nat) (p : Vector Word 17) :
    offsetStep c (atSlot k p) = atSlot (k + 1) (slotStep c p (Fin.ofNat 17 k)) := by
  have hfront : offsetAt (atSlot k p) 0 = p[Fin.ofNat 17 k] := offsetAt_atSlot k p 0
  have hnext : Fin.ofNat 17 (k + 1) = Fin.ofNat 17 k + 1 := finOfNat_add k 1
  rw [offsetStep, hfront, atSlot, atSlot, hnext]
  rfl

/-- After one step the five slots of row `n` hold the first extraction (R144). -/
theorem offsetExtractFirst_atSlot (n : Nat) (p : Vector Word 17) :
    offsetExtractFirst (atSlot (5 * n + 1) p) = slotExtract p (offsetRowAt n).first := by
  rw [offsetExtractFirst, slotExtract]
  congr 1
  all_goals exact offsetAt_atSlot (5 * n + 1) p _

/-- After four steps the five slots of row `n` hold the second extraction (R144). -/
theorem offsetExtractSecond_atSlot (n : Nat) (p : Vector Word 17) :
    offsetExtractSecond (atSlot (5 * n + 4) p) = slotExtract p (offsetRowAt n).second := by
  rw [offsetExtractSecond, slotExtract]
  congr 1
  all_goals exact offsetAt_atSlot (5 * n + 4) p _

/-- The slots of row `n` are the offsets of R117 from where the zero offset of round `n` is (R144). -/
theorem offsetRound_atSlot (c : Params) (s : Word → Rotation → Word) (n : Nat) (p : Vector Word 17) :
    offsetRound c s (atSlot (5 * n) p) =
      (atSlot (5 * (n + 1)) (unrolledRound c s (offsetRowAt n) p).1, (unrolledRound c s (offsetRowAt n) p).2) := by
  simp only [offsetRound, offsetStep_atSlot, offsetExtractFirst_atSlot, offsetExtractSecond_atSlot]
  rfl

/-- The rows from `n` on, played on the physical array, are rounds of the register it represents. -/
theorem generateRounds_atSlot (c : Params) (s : Word → Rotation → Word) (m n : Nat) (p : Vector Word 17) :
    generateRounds c s m (offsetLogical (atSlot (5 * n) p)) =
      (offsetLogical (atSlot (5 * (n + m)) (unrolledRounds c s ((List.range' n m).map offsetRowAt) p).1),
        (unrolledRounds c s ((List.range' n m).map offsetRowAt) p).2) := by
  induction m generalizing n p with
  | zero => rfl
  | succ m ih =>
    have hnext : n + 1 + m = n + (m + 1) := by omega
    simp only [generateRounds, List.range'_succ, List.map_cons, unrolledRounds, generateRound_offsetLogical,
      offsetRound_atSlot, ih, hnext]

theorem offsetTable_eq : offsetTable = (List.range' 0 17).map offsetRowAt := by decide

/-- Settles O48: the printed rows are those of the rule, whose rounds are the batch's (`generateRounds_atSlot`) from
zero offset 0 to zero offset `85 mod 17`, again 0. -/
theorem unrolledBatchEqualsBatch : Obligations.UnrolledBatchEqualsBatch := by
  refine ⟨fun c s p => ?_, by rw [offsetTable_eq, List.range_eq_range']⟩
  have hstart : offsetLogical (atSlot (5 * 0) p) = p := offsetLogical_zero p
  have hend (p' : Vector Word 17) : offsetLogical (atSlot (5 * (0 + 17)) p') = p' := offsetLogical_zero p'
  have hrounds := generateRounds_atSlot c s 17 0 p
  rw [hstart, hend, ← offsetTable_eq] at hrounds
  rw [generateBatch, hrounds, unrolledBatch]

end Sys2Proof.Machine
end

section
/-!
The pseudo-Hadamard transform (44_pht R120 to R122): the words of PHTn and PHT5 as its case of five words (O40), and the
inverse on both sides (O41).
-/

namespace Sys2Proof.Machine

theorem sumWords_eq_sum (ws : List Word) : sumWords ws = ws.sum := List.sum_eq_foldl.symm

theorem phtN_singleton (x : Word) : phtN [x] = [x] := by
  rw [← List.nil_append [x], phtN_concat]
  simp [sumWords]

theorem phtN_pair (x y : Word) : phtN [x, y] = [x + x + y, x + y] := by
  have hlast : y + sumWords [x] = x + y := by simp [sumWords_eq_sum, BitVec.add_comm]
  rw [← List.singleton_append, phtN_concat, hlast, List.map_singleton, ← BitVec.add_assoc]
  rfl

/-- The fifth word of `PHT5` takes the four others in their order, as the sum of `PHTn` does (R120, R121). -/
theorem words_pht5 (v : Five) : (pht5 v).words = phtN v.words := by
  have hlast : v.e + sumWords [v.a, v.b, v.c, v.d] = v.e + v.a + v.b + v.c + v.d := by
    simp [sumWords, BitVec.add_assoc]
  have hwords : v.words = [v.a, v.b, v.c, v.d] ++ [v.e] := rfl
  rw [hwords, phtN_concat, hlast]
  rfl

/-- Settles O40: `phtN_concat`, in whose terms one, two and five words are cases. -/
theorem phtNFormula : Obligations.PhtNFormula := by
  refine ⟨fun ws x => ?_, words_pht5, phtN_singleton, phtN_pair⟩
  rw [phtN_concat, sumWords_eq_sum]

/-- `PHTn` adds the words the inverse has found to the last, which is the old last again, and then the last to the
others (R122). -/
theorem phtN_phtNInverse : Function.RightInverse phtNInverse phtN := by
  intro ws
  cases ws using List.reverseRecOn with
  | nil => rfl
  | append_singleton ws x =>
    have hfront : (ws.map (· - x)).map (· + x) = ws := by simp [Function.comp_def]
    rw [phtNInverse_concat, phtN_concat, BitVec.sub_add_cancel, hfront]

/-- Settles O41: each pass undoes the other (`phtNInverse_phtN`, `phtN_phtNInverse`). -/
theorem phtNBijective : Obligations.PhtNBijective := ⟨phtN_length, phtNInverse_phtN, phtN_phtNInverse⟩

end Sys2Proof.Machine
end

section
/-!
The register initialisation (45_key_iv_load R128): what the fill keeps and adds, the words placed before it, and the
mix after it (O43).
-/

namespace Sys2Proof.Machine

/-! ### The fill -/

theorem ivFill_length (s : Word → Rotation → Word) (n0 count : Nat) (r : List Word) :
    (ivFill s n0 count r).length = r.length + count := by
  induction count generalizing r with
  | zero => rfl
  | succ count ih =>
    rw [ivFill, ih, List.length_append, List.length_singleton]
    omega

/-- The fill writes after the words it starts from. -/
theorem ivFill_eq_append (s : Word → Rotation → Word) (n0 count : Nat) (r : List Word) :
    ∃ added, ivFill s n0 count r = r ++ added := by
  induction count generalizing r with
  | zero => exact ⟨[], (List.append_nil r).symm⟩
  | succ count ih =>
    obtain ⟨added, hfill⟩ := ih (r ++ [s (r.getD (r.length - n0) 0 + r.getD (r.length - 1) 0) .r0])
    exact ⟨_, hfill.trans (List.append_assoc r _ added)⟩

theorem ivFill_getElem?_of_lt (s : Word → Rotation → Word) (n0 count : Nat) {r : List Word} {i : Nat}
    (h : i < r.length) : (ivFill s n0 count r)[i]? = r[i]? := by
  obtain ⟨added, hfill⟩ := ivFill_eq_append s n0 count r
  rw [hfill, List.getElem?_append_left h]

theorem ivFill_getD_of_lt (s : Word → Rotation → Word) (n0 count : Nat) {r : List Word} {i : Nat}
    (h : i < r.length) : (ivFill s n0 count r).getD i 0 = r.getD i 0 := by
  rw [List.getD_eq_getElem?_getD, ivFill_getElem?_of_lt s n0 count h, ← List.getD_eq_getElem?_getD]

/-- Every word the fill adds is made of the words `n0` and 1 before it (R128 (d)). -/
theorem ivFill_recurrence (s : Word → Rotation → Word) (n0 count : Nat) (r : List Word) (hn0 : 1 ≤ n0)
    (hr : n0 ≤ r.length) (i : Nat) (hlo : r.length ≤ i) (hhi : i < r.length + count) :
    (ivFill s n0 count r).getD i 0 =
      s ((ivFill s n0 count r).getD (i - n0) 0 + (ivFill s n0 count r).getD (i - 1) 0) .r0 := by
  induction count generalizing r with
  | zero => exact absurd hhi (Nat.not_lt.2 hlo)
  | succ count ih =>
    rw [ivFill]
    generalize hw : s (r.getD (r.length - n0) 0 + r.getD (r.length - 1) 0) .r0 = w
    have hlen : (r ++ [w]).length = r.length + 1 := List.length_append
    rcases Nat.eq_or_lt_of_le hlo with rfl | hlt
    · have before (j : Nat) (hj : j < r.length) : (ivFill s n0 count (r ++ [w])).getD j 0 = r.getD j 0 := by
        rw [ivFill_getD_of_lt s n0 count (by omega), List.getD_append _ _ _ _ hj]
      have added : (ivFill s n0 count (r ++ [w])).getD r.length 0 = w := by
        rw [ivFill_getD_of_lt s n0 count (by omega)]
        simp
      rw [added, before (r.length - n0) (by omega), before (r.length - 1) (by omega), hw]
    · exact ih (r ++ [w]) (by omega) (by omega) (by omega)

/-! ### The words placed before the fill -/

theorem ivPlaced_length (c : Params) (k v : List Word) : (ivPlaced c k v).length = v.length + k.length + 1 := by
  simp [ivPlaced, Nat.add_assoc]

/-- The fields of the length word do not overlap (R128 (c)). -/
theorem lengthWord_eq (kw iw : Nat) (hkw : kw < 16) (hiw : iw < 16) :
    lengthWord kw iw = BitVec.ofNat 32 (0x01020300 + 16 * kw + iw) := by
  have hkw_shift : BitVec.ofNat 32 kw <<< 4 = BitVec.ofNat 32 (16 * kw) := by
    apply BitVec.eq_of_toNat_eq
    simp only [BitVec.toNat_shiftLeft, BitVec.toNat_ofNat, Nat.shiftLeft_eq]
    omega
  have hkw_or : 0x01020300 ||| 16 * kw = 0x01020300 + 16 * kw :=
    (Nat.two_pow_add_eq_or_of_lt (i := 8) (by omega) 0x10203).symm
  have hupper : 0x01020300 + 16 * kw = 2 ^ 4 * (0x102030 + kw) := by omega
  have hiw_or : 0x01020300 ||| 16 * kw ||| iw = 0x01020300 + 16 * kw + iw := by
    rw [hkw_or, hupper, Nat.two_pow_add_eq_or_of_lt hiw]
  rw [lengthWord, hkw_shift, ← hiw_or, BitVec.ofNat_or, BitVec.ofNat_or]
  rfl

theorem ivPlaced_getElem?_iv (c : Params) (k v : List Word) (j : Nat) (h : j < v.length) :
    (ivPlaced c k v)[j]? = (v[j]?).map (fixedS c) := by
  rw [ivPlaced, List.append_assoc, List.getElem?_append_left (by simpa using h), List.getElem?_map]

theorem ivPlaced_getElem?_key (c : Params) (k v : List Word) (j : Nat) (h : j < k.length) :
    (ivPlaced c k v)[v.length + j]? = k[j]? := by
  rw [ivPlaced, List.append_assoc, List.getElem?_append_right (by simp), List.length_map, Nat.add_sub_cancel_left,
    List.getElem?_append_left h]

theorem ivPlaced_getElem?_lengthWord (c : Params) (k v : List Word) :
    (ivPlaced c k v)[v.length + k.length]? = some (lengthWord k.length v.length) := by
  have hend : (v.map (fixedS c) ++ k).length = v.length + k.length := by simp
  rw [ivPlaced, ← hend, List.getElem?_concat_length]

/-! ### The register words -/

theorem ivUnmixed_length (c : Params) (s : Word → Rotation → Word) (k v : List Word) (h : v.length + k.length ≤ 16) :
    (ivUnmixed c s k v).length = 17 := by
  rw [ivUnmixed, ivFill_length, ivPlaced_length]
  omega

theorem ivUnmixed_getElem?_of_le (c : Params) (s : Word → Rotation → Word) (k v : List Word) (i : Nat)
    (h : i ≤ v.length + k.length) : (ivUnmixed c s k v)[i]? = (ivPlaced c k v)[i]? :=
  ivFill_getElem?_of_lt s _ _ (by rw [ivPlaced_length]; omega)

theorem ivUnmixed_recurrence (c : Params) (s : Word → Rotation → Word) (k v : List Word) (i : Nat)
    (hlo : v.length + k.length + 1 ≤ i) (hhi : i < 17) :
    (ivUnmixed c s k v).getD i 0 =
      s ((ivUnmixed c s k v).getD (i - (v.length + k.length + 1)) 0 + (ivUnmixed c s k v).getD (i - 1) 0) .r0 := by
  have hplaced := ivPlaced_length c k v
  rw [← hplaced] at hlo ⊢
  exact ivFill_recurrence s _ _ _ (by omega) le_rfl i hlo (by omega)

/-- `PHTn` makes the last word the sum of all, and adds that sum to the others (R121). -/
theorem phtN_getD (ws : List Word) (i : Nat) (h : i < ws.length) :
    (phtN ws).getD i 0 = if i < ws.length - 1 then ws.getD i 0 + ws.sum else ws.sum := by
  cases ws using List.reverseRecOn with
  | nil => exact absurd h (Nat.not_lt_zero i)
  | append_singleton ws x =>
    have hsum : x + sumWords ws = (ws ++ [x]).sum := by
      rw [sumWords_eq_sum, List.sum_append, List.sum_singleton, BitVec.add_comm]
    rw [List.length_append, List.length_singleton] at h
    rw [phtN_concat, hsum, List.length_append, List.length_singleton, Nat.add_sub_cancel]
    split_ifs with hi
    · simp [List.getElem?_append_left, hi]
    · obtain rfl : i = ws.length := by omega
      simp

/-- Settles O43: (a) to (c) are read off the placed words, which the fill keeps; (d) is `ivFill_recurrence`, and (e) the
words of `PHTn`. -/
theorem ivLoadPlacesFillsAndMixes : Obligations.IvLoadPlacesFillsAndMixes := by
  intro c s k v _ hk hv
  have hlen : (ivUnmixed c s k v).length = 17 := ivUnmixed_length c s k v (by omega)
  refine ⟨hlen, fun j hj => ?_, fun j hj => ?_, ?_, ivUnmixed_recurrence c s k v, fun i => ?_⟩
  · rw [ivUnmixed_getElem?_of_le c s k v j (by omega), ivPlaced_getElem?_iv c k v j hj]
  · rw [ivUnmixed_getElem?_of_le c s k v _ (by omega), ivPlaced_getElem?_key c k v j hj]
  · rw [ivUnmixed_getElem?_of_le c s k v _ le_rfl, ivPlaced_getElem?_lengthWord,
      lengthWord_eq k.length v.length (by omega) (by omega)]
  · have hword : (ivLoad c s k v)[i] = (phtN (ivUnmixed c s k v)).getD i.val 0 := toVector_getElem 17 _ i.val i.isLt
    rw [hword, phtN_getD _ _ (hlen.symm ▸ i.isLt), hlen]

end Sys2Proof.Machine
end

section
/-!
The commands of 45_key_iv_load: a `SETKEY` that completes loads the key schedule (O22) of the words below `KW` alone
(O24), a `SETIV` that completes initialises the register (O25), and `NOP` (O20) and `ZEROIZE` (O21) with the malformed
words of their opcodes.
-/

namespace Sys2Proof.Machine

/-! ### SETKEY -/

/-- Settles O22: the command passes its checks (`exec_setkeyInstr_of_legal`) and leaves what `loadKey` does. -/
theorem setkeyRefLoadsKeySchedule : Obligations.SetkeyRefLoadsKeySchedule := by
  intro len s hphase hge hle hmod
  have hlen : keyLenLegal len = true := (keyLenLegal_iff len).2 ⟨hge, hle, hmod⟩
  have exec_ref := exec_setkeyInstr_of_legal .ref len s hphase hlen
  have kw_eq := loadKey_kw_val Config.params .ref len s.block hlen
  have k_eq := keySchedule_getElem?_eq_loadKey_k Config.params .ref len s.block hlen
  have k_upper := loadKey_k_of_wordCount_le Config.params .ref len s.block hlen
  have din_eq (i : Fin 12) : (loadKey Config.params .ref len s.block).din[i] = 0 := by simp
  exact ⟨_, exec_ref, rfl, rfl, kw_eq, k_eq, k_upper, din_eq, rfl, rfl, rfl, rfl, rfl, rfl, rfl, rfl⟩

/-- The first `n` words of `DIN` depend on the cells below `n` alone. -/
theorem dinWords_congr (n : Nat) {b b' : Block} (h : ∀ i : Fin 12, i.val < n → b'.din[i] = b.din[i]) :
    dinWords n b' = dinWords n b := by
  apply List.ext_getElem
  · rw [dinWords_length, dinWords_length]
  · intro i hi _
    obtain ⟨hn, h12⟩ := Nat.lt_min.1 (dinWords_length n b' ▸ hi)
    simpa [dinWords] using h ⟨i, h12⟩ hn

/-- `SETKEY` clears `DIN`, so that what it leaves depends on `DIN` through the key words alone (R126). -/
theorem loadKey_din_congr (c : Params) (mode : Mode) (len : Nat) (b : Block) (d : Vector Word 12)
    (h : dinWords (wordCount len) { b with din := d } = dinWords (wordCount len) b) :
    loadKey c mode len { b with din := d } = loadKey c mode len b := by
  rw [loadKey, loadKey, h]
  rfl

theorem exec_setkeyInstr_din_congr (mode : Mode) (len : Nat) (s : State) (d : Vector Word 12)
    (hphase : s.block.phase = .empty) (hlen : keyLenLegal len = true)
    (hd : ∀ i : Fin 12, i.val < wordCount len → d[i] = s.block.din[i]) :
    exec (setkeyInstr len mode) { s with block := { s.block with din := d } } = exec (setkeyInstr len mode) s := by
  have hload := loadKey_din_congr Config.params mode len s.block d (dinWords_congr (wordCount len) hd)
  calc exec (setkeyInstr len mode) { s with block := { s.block with din := d } }
    _ = .next { s with block := succeed (loadKey Config.params mode len { s.block with din := d }) } :=
      exec_setkeyInstr_of_legal mode len _ hphase hlen
    _ = .next { s with block := succeed (loadKey Config.params mode len s.block) } := by rw [hload]
    _ = exec (setkeyInstr len mode) s := (exec_setkeyInstr_of_legal mode len s hphase hlen).symm

/-- Settles O24: one argument for the three modes (`exec_setkeyInstr_din_congr`). -/
theorem setkeyIgnoresUpperDinWords : Obligations.SetkeyIgnoresUpperDinWords := fun len s d hphase hlen hd =>
  ⟨exec_setkeyInstr_din_congr .ref len s d hphase hlen hd, exec_setkeyInstr_din_congr .table len s d hphase hlen hd,
    exec_setkeyInstr_din_congr .fast len s d hphase hlen hd⟩

/-! ### SETIV -/

/-- `SETIV` in phase `KEYED` with a length that both bounds allow passes its checks (R129). -/
theorem exec_setiv_of_legal (len : Nat) (s : State) (hphase : s.block.phase = .keyed)
    (hiv : ivLenLegal Config.params len = true) (hkiv : kivLenLegal s.block.kw.val len = true) :
    exec (.setiv len) s = .next (mapBlock (fun b => succeed (loadIv Config.params len b)) s) := by
  rw [exec_eq, instrEffect, mapBlock]
  rcases setivCommand_cases Config.params len s.block with ⟨hp, -⟩ | ⟨-, hl, -⟩ | ⟨-, -, hk, -⟩ | ⟨-, -, -, h⟩
  · exact absurd hphase hp
  · exact absurd (hl.symm.trans hiv) (by decide)
  · exact absurd (hk.symm.trans hkiv) (by decide)
  · rw [h, mapBlock]

/-- The KeyedS of the current mode, as the statements write it (42_keyed_s R110). -/
theorem modeKeyedS_eq_keyedOf (b : Block) : modeKeyedS b = keyedOf Config.params b := by
  rw [modeKeyedS, keyedOf]
  cases b.mode with
  | ref => rfl
  | table => rfl
  | fast => rfl

/-- Settles O25: the command passes its checks (`exec_setiv_of_legal`) and leaves what `loadIv` does, field by
field. -/
theorem setivInitialisesRegister : Obligations.SetivInitialisesRegister := by
  intro len s hphase hmod hmin hmax
  have exec_setiv := exec_setiv_of_legal len s hphase ((ivLenLegal_iff Config.params len).2 ⟨hmod, hmin⟩)
    ((kivLenLegal_iff s.block.kw.val len).2 hmax)
  refine ⟨_, exec_setiv, ?_⟩
  simp [modeKeyedS_eq_keyedOf, keyWords, dinWords, wordCount]

/-! ### NOP and ZEROIZE -/

/-- An opcode without operands has one word: the others that carry it are illegal (30_encoding R75 (a), (c)). -/
theorem illegalEncoding_of_ne_bare (v : Word) (opc : Nat) (hbare : opc = 0 ∨ opc = 3 ∨ opc = 4 ∨ opc = 5)
    (hopc : fieldOpc v = opc) (hne : v ≠ packCommand opc 0 0) : illegalEncoding v := by
  rw [illegalEncoding_iff]
  by_contra hlegal
  obtain ⟨hzero, hlen, hmode⟩ : fieldZero v = 0 ∧ fieldLen v = 0 ∧ fieldMode v = 0 := by omega
  have hword := eq_packCommand_of_fieldZero v hzero
  rw [hopc, hlen, hmode] at hword
  exact hne hword

theorem execute_of_illegalEncoding (v : Word) (s : State) (h : illegalEncoding v) :
    execute v s = .next (failedWith .opcode s) := by
  rw [execute_eq, mapBlock, executeEffect_of_illegalEncoding Config.params v s.block h]
  rfl

/-- Settles O20: `NOP` is `succeed`, and its word the only one of its opcode. -/
theorem nopClearsErrOnly : Obligations.NopClearsErrOnly := by
  refine ⟨exec_eq .nop, rfl, fun v s hne hopc => execute_of_illegalEncoding v s ?_⟩
  exact illegalEncoding_of_ne_bare v 0 (by decide) (by rw [fieldOpc_eq_extractLsb', hopc]; rfl) hne

/-- Right after reset `STATUS` and every cell of `DOUT` read 0 (10_state R37). -/
theorem portRead_reset (idx : PortIndex) : (portRead idx Block.reset).1 = 0 := by
  unfold portRead
  cases portOf idx with
  | cmd => rfl
  | status => rfl
  | din i => rfl
  | dout i => simp [readDout]
  | unmapped => rfl

theorem tableAt_reset (p : Fin 4) (x : Byte) : tableAt Block.reset.t p x = 0 := by
  simp [tableAt, Vector.get_eq_getElem]

/-- Settles O21: `ZEROIZE` leaves `Block.reset`, and its word is the only one of its opcode. -/
theorem zeroizeRestoresResetValues : Obligations.ZeroizeRestoresResetValues := by
  refine ⟨fun s => ⟨_, exec_eq .zeroize s, ?_⟩, fun v s hne hopc => execute_of_illegalEncoding v s ?_⟩
  · rw [mapBlock, instrEffect, zeroizeCommand_eq]
    exact ⟨by simp, by simp, tableAt_reset, by simp, by simp, rfl, rfl, rfl, rfl, rfl, rfl,
      portRead_reset 0x01, fun idx _ _ => portRead_reset idx, rfl, rfl⟩
  · exact illegalEncoding_of_ne_bare v 5 (by decide) (by rw [fieldOpc_eq_extractLsb', hopc]; rfl) hne

end Sys2Proof.Machine
end

section
/-!
The round and the batch (46_round_batch): a round in terms of the register at entry (O47), and the commands `ROUND`
(O26) and `BATCH` (O27) that complete.
-/

namespace Sys2Proof.Machine

/-! ### A round -/

/-- A step, with every word of the register after it written out (43_register_step R115). -/
theorem stepRegister_eq_words (c : Params) (r : Vector Word 17) : stepRegister c r =
    #v[r[1], r[2], r[3], r[4], r[5], r[6], r[7], r[8], r[9], r[10], r[11], r[12], r[13], r[14], r[15], r[16],
      newWord c r[0] r[4] r[15]] := by
  refine (eq_stepRegister c r _ (fun i h => ?_) rfl).symm
  interval_cases i <;> rfl

/-- The new word with its shifts written out, as the statements do. -/
theorem newWord_eq_shifts (c : Params) (r0 r4 r15 : Word) :
    newWord c r0 r4 r15 = r15 ^^^ r4 ^^^ (r0 <<< 8) ^^^ c.multab ((r0 >>> 24).setWidth 8) := by
  rw [newWord, shl8, top_eq_ushiftRight]

/-- The register of the second extraction: the words that entered in the four steps before it follow those of the entry
register (R140). -/
theorem stepRegisterTimes_three_stepRegister_eq_words (c : Params) (r : Vector Word 17) {n1 n2 n3 n4 : Word}
    (h1 : n1 = newWord c r[0] r[4] r[15]) (h2 : n2 = newWord c r[1] r[5] r[16])
    (h3 : n3 = newWord c r[2] r[6] n1) (h4 : n4 = newWord c r[3] r[7] n2) :
    stepRegisterTimes c 3 (stepRegister c r) =
      #v[r[4], r[5], r[6], r[7], r[8], r[9], r[10], r[11], r[12], r[13], r[14], r[15], r[16], n1, n2, n3, n4] := by
  subst h1 h2 h3 h4
  simp only [stepRegisterTimes, stepRegister_eq_words]
  rfl

/-- Settles O47: the five steps of a round enter `n1` to `n5`, the first of them before the first extraction and the
fifth after the second. -/
theorem roundInTermsOfEntryRegister : Obligations.RoundInTermsOfEntryRegister := by
  intro c s r
  obtain ⟨n1, h1⟩ : ∃ n1, n1 = newWord c r[0] r[4] r[15] := ⟨_, rfl⟩
  obtain ⟨n2, h2⟩ : ∃ n2, n2 = newWord c r[1] r[5] r[16] := ⟨_, rfl⟩
  obtain ⟨n3, h3⟩ : ∃ n3, n3 = newWord c r[2] r[6] n1 := ⟨_, rfl⟩
  obtain ⟨n4, h4⟩ : ∃ n4, n4 = newWord c r[3] r[7] n2 := ⟨_, rfl⟩
  obtain ⟨n5, h5⟩ : ∃ n5, n5 = newWord c r[4] r[8] n3 := ⟨_, rfl⟩
  have first_step := stepRegister_eq_words c r
  rw [← h1] at first_step
  have four_steps := stepRegisterTimes_three_stepRegister_eq_words c r h1 h2 h3 h4
  refine ⟨n1, n2, n3, n4, n5, h1.trans (newWord_eq_shifts c _ _ _), h2.trans (newWord_eq_shifts c _ _ _),
    h3.trans (newWord_eq_shifts c _ _ _), h4.trans (newWord_eq_shifts c _ _ _), h5.trans (newWord_eq_shifts c _ _ _),
    ?_, _, _, rfl, rfl, ?_⟩
  · rw [generateRound, four_steps, stepRegister_eq_words, h5]
    rfl
  · rw [generateRound, four_steps, first_step]
    rfl

/-! ### ROUND -/

/-- `ROUND` in phase `RUNNING` and mode `REF` or `TABLE` passes its checks (R141). -/
theorem exec_round_of_running (s : State) (hphase : s.block.phase = .running) (hmode : s.block.mode ≠ .fast) :
    exec .round s = .next (mapBlock (fun b => succeed (runRound Config.params b)) s) := by
  rw [exec_eq, instrEffect, mapBlock]
  rcases roundCommand_cases Config.params s.block with ⟨hp, -⟩ | ⟨-, hm, -⟩ | ⟨-, -, h⟩
  · exact absurd hphase hp
  · exact absurd hm hmode
  · rw [h, mapBlock]

theorem words_getElem?_eq_storeRound_dout (v : Five) (b : Block) (i : Fin 85) (h : i.val < 5) :
    v.words[i.val]? = some (storeRound v b).dout[i] := by
  rw [← storeRound_dout_take v b, List.getElem?_take_of_lt h]
  simp

theorem storeRound_dout_of_five_le (v : Five) (b : Block) (i : Fin 85) (h : 5 ≤ i.val) :
    (storeRound v b).dout[i] = b.dout[i] := by
  simp only [storeRound_dout, Fin.getElem_fin, Vector.getElem_set]
  rw [if_neg (by omega), if_neg (by omega), if_neg (by omega), if_neg (by omega), if_neg (by omega)]

/-- Settles O26: the command passes its checks (`exec_round_of_running`) and leaves what `runRound` does. -/
theorem roundProducesFiveWords : Obligations.RoundProducesFiveWords := by
  intro s hphase hmode
  rw [modeKeyedS_eq_keyedOf]
  have dout_eq := runRound_dout Config.params s.block
  refine ⟨_, exec_round_of_running s hphase hmode, runRound_r Config.params s.block, fun i h => ?_, fun i h => ?_,
    by simp⟩
  · rw [mapBlock_block, succeed_dout, dout_eq]
    exact words_getElem?_eq_storeRound_dout _ s.block i h
  · rw [mapBlock_block, succeed_dout, dout_eq]
    exact storeRound_dout_of_five_le _ s.block i h

/-! ### BATCH -/

/-- `BATCH` in phase `RUNNING` and mode `FAST` passes its checks (R143). -/
theorem exec_batch_of_running (s : State) (hphase : s.block.phase = .running) (hmode : s.block.mode = .fast) :
    exec .batch s = .next (mapBlock (fun b => succeed (runBatch Config.params b)) s) := by
  rw [exec_eq, instrEffect, mapBlock]
  rcases batchCommand_cases Config.params s.block with ⟨hp, -⟩ | ⟨-, hm, -⟩ | ⟨-, -, h⟩
  · exact absurd hphase hp
  · exact absurd hmode hm
  · rw [h, mapBlock]

theorem keyedOf_of_fast (c : Params) (b : Block) (hmode : b.mode = .fast) : keyedOf c b = keyedST b.t := by
  rw [keyedOf, hmode]

/-- The output of round `n` is that of a round on the register `n` rounds leave (R142). -/
theorem generateRounds_outputs_getElem? (c : Params) (s : Word → Rotation → Word) {m n : Nat} (r : Vector Word 17)
    (h : n < m) :
    (generateRounds c s m r).2[n]? = some (generateRound c s (generateRounds c s n r).1).2 := by
  obtain ⟨k, rfl⟩ := Nat.exists_eq_add_of_lt h
  have hlen := generateRounds_outputs_length c s n r
  rw [Nat.add_assoc, generateRounds_add_outputs, List.getElem?_append_right hlen.le, hlen, Nat.sub_self]
  rfl

/-- Words `5n` to `5n + 4` are those of output `n` (R142). -/
theorem flatMap_words_getElem? {vs : List Five} {n j : Nat} {v : Five} (hn : vs[n]? = some v) (hj : j < 5) :
    (vs.flatMap Five.words)[5 * n + j]? = v.words[j]? := by
  induction vs generalizing n with
  | nil => simp at hn
  | cons u us ih =>
    have hu : u.words.length = 5 := rfl
    rw [List.flatMap_cons]
    cases n with
    | zero =>
      obtain rfl : u = v := by simpa using hn
      rw [List.getElem?_append_left (by omega), Nat.mul_zero, Nat.zero_add]
    | succ n =>
      have hrest : 5 * (n + 1) + j - 5 = 5 * n + j := by omega
      rw [List.getElem?_append_right (by omega), hu, hrest]
      exact ih (by simpa using hn)

/-- Word `5n + j` of a batch is word `j` of its round `n` (R142). -/
theorem generateBatch_words_getElem? (c : Params) (s : Word → Rotation → Word) (r : Vector Word 17) {n j : Nat}
    (hn : n < 17) (hj : j < 5) :
    (generateBatch c s r).2[5 * n + j]? = (generateRound c s (generateRounds c s n r).1).2.words[j]? :=
  flatMap_words_getElem? (generateRounds_outputs_getElem? c s r hn) hj

/-- `DOUT` holds the words of a batch (R143). -/
theorem generateBatch_words_getElem?_eq_runBatch_dout (c : Params) (b : Block) (i : Fin 85) :
    (generateBatch c (keyedOf c b) b.r).2[i.val]? = some (runBatch c b).dout[i] := by
  have hi : i.val < (generateBatch c (keyedOf c b) b.r).2.length := by
    rw [generateBatch_words_length]
    exact i.isLt
  rw [runBatch_dout, Fin.getElem_fin, toVector_getElem, List.getD_eq_getElem _ _ hi, List.getElem?_eq_getElem hi]

/-- Settles O27: the command passes its checks (`exec_batch_of_running`), and what it leaves in `DOUT` is cut into the
slices of its rounds (`generateBatch_words_getElem?`). -/
theorem batchProducesSeventeenRounds : Obligations.BatchProducesSeventeenRounds := by
  intro s hphase hmode
  rw [← keyedOf_of_fast Config.params s.block hmode]
  refine ⟨_, exec_batch_of_running s hphase hmode, runBatch_r Config.params s.block, fun n j i hi => ?_,
    by simp⟩
  rw [mapBlock_block, succeed_dout, ← generateBatch_words_getElem?_eq_runBatch_dout, hi]
  exact (generateBatch_words_getElem? Config.params (keyedOf Config.params s.block) s.block.r n.isLt j.isLt).symm

end Sys2Proof.Machine
end

section
/-!
Errors (60_exceptions): which code a command reports (O15) with what effect (O14), the checks one by one (O16, O17,
O18), and that no command and no step stops (O7).
-/

namespace Sys2Proof.Machine

/-! ### The error a command reports -/

/-- A command that makes `b'` of the block `b` reports `code`: a code other than `none` comes of a failure, which
leaves "exactly the state before the access, plus the two flags" (60_exceptions R185). -/
structure Reports (code : ErrCode) (b b' : Block) : Prop where
  err : b'.err = code
  failed : code ≠ .none → b' = raiseErr code b

theorem reports_raiseErr (code : ErrCode) (b : Block) : Reports code b (raiseErr code b) := ⟨rfl, fun _ => rfl⟩

theorem reports_of_err_none (b : Block) {b' : Block} (h : b'.err = .none) : Reports .none b b' :=
  ⟨h, fun hne => absurd rfl hne⟩

theorem keyLenLegal_eq_false_iff (len : Nat) : keyLenLegal len = false ↔ len < 4 ∨ 32 < len ∨ len % 4 ≠ 0 := by
  rw [← Bool.not_eq_true, keyLenLegal_iff]
  omega

theorem ivLenLegal_eq_false_iff (c : Params) (len : Nat) :
    ivLenLegal c len = false ↔ len % 4 ≠ 0 ∨ len < c.ivMin.bytes := by
  rw [← Bool.not_eq_true, ivLenLegal_iff]
  omega

theorem kivLenLegal_eq_false_iff (kw len : Nat) : kivLenLegal kw len = false ↔ 48 < len + 4 * kw := by
  rw [← Bool.not_eq_true, kivLenLegal_iff]
  omega

theorem setkeyError_of_phase {len : Nat} {b : Block} (hp : b.phase ≠ .empty) : setkeyError len b = .state := if_pos hp

theorem setkeyError_of_phase_empty {len : Nat} {b : Block} (hp : b.phase = .empty) :
    setkeyError len b = if keyLenLegal len = false then .keyLen else .none := by
  simp only [setkeyError, if_neg (not_not.2 hp), keyLenLegal_eq_false_iff]

theorem commandError_setiv_of_phase_keyed (c : Params) (len : Nat) {b : Block} (hp : b.phase = .keyed) :
    commandError c (.setiv len) b =
      if ivLenLegal c len = false then .ivLen else if kivLenLegal b.kw.val len = false then .kivLen else .none := by
  simp only [commandError, if_neg (not_not.2 hp), ivLenLegal_eq_false_iff, kivLenLegal_eq_false_iff]

theorem reports_setkeyCommand (c : Params) (mode : Mode) (len : Nat) (b : Block) :
    Reports (setkeyError len b) b (setkeyCommand c mode len b) := by
  rcases setkeyCommand_cases c mode len b with ⟨hp, h⟩ | ⟨hp, hl, h⟩ | ⟨hp, hl, h⟩ <;> rw [h]
  · rw [setkeyError_of_phase hp]
    exact reports_raiseErr .state b
  · rw [setkeyError_of_phase_empty hp, if_pos hl]
    exact reports_raiseErr .keyLen b
  · rw [setkeyError_of_phase_empty hp, hl]
    exact reports_of_err_none b rfl

theorem reports_setivCommand (c : Params) (len : Nat) (b : Block) :
    Reports (commandError c (.setiv len) b) b (setivCommand c len b) := by
  rcases setivCommand_cases c len b with ⟨hp, h⟩ | ⟨hp, hl, h⟩ | ⟨hp, hl, hk, h⟩ | ⟨hp, hl, hk, h⟩ <;> rw [h]
  · rw [commandError, if_pos hp]
    exact reports_raiseErr .state b
  · rw [commandError_setiv_of_phase_keyed c len hp, if_pos hl]
    exact reports_raiseErr .ivLen b
  · rw [commandError_setiv_of_phase_keyed c len hp, hl, if_neg (by decide), if_pos hk]
    exact reports_raiseErr .kivLen b
  · rw [commandError_setiv_of_phase_keyed c len hp, hl, hk]
    exact reports_of_err_none b rfl

theorem reports_roundCommand (c : Params) (b : Block) : Reports (commandError c .round b) b (roundCommand c b) := by
  rcases roundCommand_cases c b with ⟨hp, h⟩ | ⟨hp, hm, h⟩ | ⟨hp, hm, h⟩ <;> rw [h, commandError]
  · rw [if_pos hp]
    exact reports_raiseErr .state b
  · rw [if_neg (not_not.2 hp), if_pos hm]
    exact reports_raiseErr .mode b
  · rw [if_neg (not_not.2 hp), if_neg hm]
    exact reports_of_err_none b rfl

theorem reports_batchCommand (c : Params) (b : Block) : Reports (commandError c .batch b) b (batchCommand c b) := by
  rcases batchCommand_cases c b with ⟨hp, h⟩ | ⟨hp, hm, h⟩ | ⟨hp, hm, h⟩ <;> rw [h, commandError]
  · rw [if_pos hp]
    exact reports_raiseErr .state b
  · rw [if_neg (not_not.2 hp), if_pos hm]
    exact reports_raiseErr .mode b
  · rw [if_neg (not_not.2 hp), if_neg (not_not.2 hm)]
    exact reports_of_err_none b rfl

/-- The checks of a command are those of R184, in that order. -/
theorem reports_instrEffect (c : Params) (i : Instr) (b : Block) :
    Reports (commandError c i b) b (instrEffect c i b) := by
  cases i with
  | nop => exact reports_of_err_none b rfl
  | setkeyRef len => exact reports_setkeyCommand c .ref len b
  | setkeyTable len => exact reports_setkeyCommand c .table len b
  | setkeyFast len => exact reports_setkeyCommand c .fast len b
  | setiv len => exact reports_setivCommand c len b
  | round => exact reports_roundCommand c b
  | batch => exact reports_batchCommand c b
  | zeroize => exact reports_of_err_none b rfl

/-- A word that leaves an error code leaves the block before it with that code and `FAULT` set. -/
theorem executeEffect_eq_raiseErr (c : Params) (v : Word) (b : Block) (h : (executeEffect c v b).err ≠ .none) :
    executeEffect c v b = raiseErr (executeEffect c v b).err b := by
  unfold executeEffect at h ⊢
  cases hd : decode v with
  | ok i =>
    obtain ⟨herr, hfailed⟩ := reports_instrEffect c i b
    simp only [hd, herr] at h ⊢
    exact hfailed h
  | error x => rfl

/-- Settles O14: a word that leaves an error code is `raiseErr` (`executeEffect_eq_raiseErr`), and so is an unmapped
access. -/
theorem failureChangesErrAndFaultOnly : Obligations.FailureChangesErrAndFaultOnly := by
  refine ⟨fun v s t ht herr => ?_, fun idx v s hidx => ⟨?_, portWrite_of_unmapped hidx v s⟩⟩
  · rw [execute_eq] at ht
    cases ht
    rw [mapBlock, executeEffect_eq_raiseErr Config.params v s.block herr]
    exact ⟨rfl, rfl, rfl, rfl, rfl, rfl, rfl, rfl, rfl, rfl, rfl, rfl⟩
  · rw [portRead_of_unmapped hidx]
    rfl

/-- Settles O15: an illegal encoding is checked first, then a command reports its first error
(`reports_instrEffect`). -/
theorem errorPriority : Obligations.ErrorPriority := by
  intro v s t ht
  rw [execute_eq] at ht
  cases ht
  refine ⟨fun hv => ?_, fun i hi => ?_⟩
  · rw [mapBlock_block, executeEffect_of_illegalEncoding _ _ _ hv, raiseErr_err]
  · rw [mapBlock_block, executeEffect, hi]
    exact (reports_instrEffect Config.params i s.block).err

/-! ### The checks one by one -/

theorem exec_of_commandError {i : Instr} {s : State} {code : ErrCode} (h : commandError Config.params i s.block = code)
    (hne : code ≠ .none) : exec i s = .next (failedWith code s) := by
  rw [exec_eq, mapBlock, (reports_instrEffect Config.params i s.block).failed (h.symm ▸ hne), h]
  rfl

/-- All three forms of `SETKEY` have the checks of `setkeyError`. -/
theorem exec_setkey_of_setkeyError {len : Nat} {s : State} {code : ErrCode} (h : setkeyError len s.block = code)
    (hne : code ≠ .none) :
    exec (.setkeyRef len) s = .next (failedWith code s) ∧ exec (.setkeyTable len) s = .next (failedWith code s) ∧
      exec (.setkeyFast len) s = .next (failedWith code s) :=
  ⟨exec_of_commandError h hne, exec_of_commandError h hne, exec_of_commandError h hne⟩

/-- Settles O16: the first two checks of each command, in `commandError`. -/
theorem wrongPhaseOrModeIsRefused : Obligations.WrongPhaseOrModeIsRefused := by
  refine ⟨fun len s hp => ?_, fun len s hp => ?_, fun s hp => ⟨?_, ?_⟩, fun s => ?_, fun s hp hm => ?_,
    fun s hp hm => ?_⟩
  · exact exec_setkey_of_setkeyError (setkeyError_of_phase hp) (by decide)
  · exact exec_of_commandError (if_pos hp) (by decide)
  · exact exec_of_commandError (if_pos hp) (by decide)
  · exact exec_of_commandError (if_pos hp) (by decide)
  · exact ⟨_, _, exec_eq .nop s, exec_eq .zeroize s, by simp [instrEffect], by simp [instrEffect]⟩
  · exact exec_of_commandError (by rw [commandError, if_neg (not_not.2 hp), if_pos hm]) (by decide)
  · have hslow : s.block.mode ≠ .fast := by rcases hm with hm | hm <;> rw [hm] <;> decide
    exact exec_of_commandError (by rw [commandError, if_neg (not_not.2 hp), if_pos hslow]) (by decide)

/-- Settles O17: the lengths not listed are those that `keyLenLegal` refuses. -/
theorem illegalKeyLengthRaisesErrKeylen : Obligations.IllegalKeyLengthRaisesErrKeylen := by
  intro len s hp hlen
  have hillegal : keyLenLegal len = false := by
    rw [keyLenLegal_eq_false_iff]
    simp only [List.mem_cons, List.not_mem_nil, or_false] at hlen
    omega
  exact exec_setkey_of_setkeyError ((setkeyError_of_phase_empty hp).trans (if_pos hillegal)) (by decide)

/-- The code `ivLen` is reported by the check of the IV length alone. -/
theorem ivLenLegal_of_commandError_eq_ivLen {c : Params} {len : Nat} {b : Block}
    (h : commandError c (.setiv len) b = .ivLen) : ivLenLegal c len = false := by
  by_cases hp : b.phase = .keyed
  · rw [commandError_setiv_of_phase_keyed c len hp] at h
    by_contra hl
    rw [if_neg hl] at h
    split at h <;> cases h
  · rw [commandError, if_pos hp] at h
    cases h

/-- Settles O18: the two length checks of `SETIV` in their order, and the lengths below `IV_MIN` in its two values. -/
theorem illegalIvLengthRaisesErrIvlenOrKivlen : Obligations.IllegalIvLengthRaisesErrIvlenOrKivlen := by
  refine ⟨fun len s hp hlen => ?_, fun len s hp hmod hmin hmax => ?_, fun len s t ht herr => ?_⟩
  · have hiv : ivLenLegal Config.params len = false := (ivLenLegal_eq_false_iff Config.params len).2 hlen
    exact exec_of_commandError ((commandError_setiv_of_phase_keyed _ len hp).trans (if_pos hiv)) (by decide)
  · have hiv : ivLenLegal Config.params len = true := (ivLenLegal_iff Config.params len).2 ⟨hmod, hmin⟩
    have hkiv : kivLenLegal s.block.kw.val len = false := (kivLenLegal_eq_false_iff _ len).2 hmax
    have hcode : commandError Config.params (.setiv len) s.block = .kivLen := by
      rw [commandError_setiv_of_phase_keyed _ len hp, hiv, if_neg (by decide), if_pos hkiv]
    exact exec_of_commandError hcode (by decide)
  · rw [exec_eq] at ht
    cases ht
    rw [mapBlock_block, (reports_instrEffect Config.params (.setiv len) s.block).err] at herr
    rcases (ivLenLegal_eq_false_iff _ len).1 (ivLenLegal_of_commandError_eq_ivLen herr) with hmod | hmin
    · exact .inl hmod
    · have hmin : len < Config.IV_MIN.bytes := hmin
      refine .inr ?_
      cases hiv : Config.IV_MIN with
      | zero => rw [hiv] at hmin; exact absurd hmin (Nat.not_lt_zero len)
      | four => rw [hiv] at hmin; exact ⟨rfl, hmin⟩

/-! ### No step stops -/

/-- Settles O7: a step idles or serves an access, and a command changes the block (70_reset_and_hazards R214). -/
theorem noStepStops : Obligations.NoStepStops := by
  refine ⟨fun s => ?_, fun i s => ⟨_, exec_eq i s⟩⟩
  cases hp : s.pending with
  | nil => exact ⟨s, step_idle s hp⟩
  | cons e es => exact ⟨_, step_access s e es hp⟩

end Sys2Proof.Machine
end

section
/-!
The construction of a transform (47_host_stream R157, R166): which keys and IVs the block accepts, and what it then
holds (O52).
-/

namespace Sys2Proof.Machine

/-- The length a host passes is legal for a key exactly when the true length is: 255 is not. -/
theorem keyLenLegal_hostLen_iff (key : List Byte) : keyLenLegal (hostLen key) = true ↔ keyAccepted key := by
  rw [keyLenLegal_iff, keyAccepted, hostLen]
  omega

theorem hostLen_of_le {bytes : List Byte} (h : bytes.length ≤ 48) : hostLen bytes = bytes.length :=
  Nat.min_eq_left (by omega)

theorem ivMin_bytes_le_four (m : IvMin) : m.bytes ≤ 4 := by cases m <;> decide

/-- Beside an accepted key, the length a host passes is legal for an IV exactly when the true length is. -/
theorem ivLenLegal_and_kivLenLegal_hostLen_iff (c : Params) (key iv : List Byte) (hkey : keyAccepted key) :
    ivLenLegal c (hostLen iv) = true ∧ kivLenLegal (key.length / 4) (hostLen iv) = true ↔ ivAccepted c key iv := by
  obtain ⟨-, -, hmod⟩ := hkey
  have hmin := ivMin_bytes_le_four c.ivMin
  rw [ivLenLegal_iff, kivLenLegal_iff, ivAccepted, hostLen]
  omega

/-- A key presented to a zeroized block is loaded, or refused. -/
theorem presentKey_reset_cases (c : Params) (mode : Mode) (key : List Byte) :
    (¬ keyAccepted key ∧ (presentKey c mode key Block.reset).err = .keyLen) ∨
    (keyAccepted key ∧ presentKey c mode key Block.reset =
      succeed (loadKey c mode key.length (storeDin 0 ((packWords key).take 12) Block.reset))) := by
  unfold presentKey
  rcases setkeyCommand_cases c mode (hostLen key) (storeDin 0 ((packWords key).take 12) Block.reset) with
    ⟨hp, -⟩ | ⟨-, hl, h⟩ | ⟨-, hl, h⟩
  · exact absurd rfl hp
  · refine .inl ⟨fun hkey => ?_, by rw [h, raiseErr_err]⟩
    exact absurd (hl.symm.trans ((keyLenLegal_hostLen_iff key).2 hkey)) (by decide)
  · have hkey := (keyLenLegal_hostLen_iff key).1 hl
    have ⟨_, hmax, _⟩ := hkey
    exact .inr ⟨hkey, by rw [h, hostLen_of_le (by omega)]⟩

/-- What an accepted key leaves of a zeroized block: phase `KEYED` with its word count, and no error recorded. -/
structure Keyed (mode : Mode) (key : List Byte) (b : Block) : Prop where
  phase : b.phase = .keyed
  mode : b.mode = mode
  kw : b.kw.val = key.length / 4
  err : b.err = .none
  fault : b.fault = false

theorem keyed_presentKey (c : Params) (mode : Mode) (key : List Byte) (hkey : keyAccepted key) :
    Keyed mode key (presentKey c mode key Block.reset) := by
  rcases presentKey_reset_cases c mode key with ⟨hrefused, -⟩ | ⟨-, h⟩
  · exact absurd hkey hrefused
  · rw [h]
    refine ⟨by simp, by simp, ?_, by simp, by simp⟩
    rw [succeed_kw, loadKey_kw_val c mode key.length _ ((keyLenLegal_iff key.length).2 hkey), wordCount]

/-- An IV presented to a keyed block is loaded, or refused for its own length or the combined one. -/
theorem presentIv_cases (c : Params) {mode : Mode} {key : List Byte} (iv : List Byte) {b : Block}
    (hkey : keyAccepted key) (hb : Keyed mode key b) :
    (¬ ivAccepted c key iv ∧ (presentIv c iv b).err ≠ .none) ∨
    (ivAccepted c key iv ∧ presentIv c iv b =
      succeed (loadIv c (hostLen iv) (storeDin 0 ((packWords iv).take 12) b))) := by
  rw [← ivLenLegal_and_kivLenLegal_hostLen_iff c key iv hkey, ← hb.kw]
  unfold presentIv
  rcases setivCommand_cases c (hostLen iv) (storeDin 0 ((packWords iv).take 12) b) with
    ⟨hp, -⟩ | ⟨-, hl, h⟩ | ⟨-, -, hl, h⟩ | ⟨-, hl, hk, h⟩
  · exact absurd hb.phase hp
  · exact .inl ⟨by simp [hl], by simp [h]⟩
  · rw [storeDin_kw] at hl
    exact .inl ⟨by simp [hl], by simp [h]⟩
  · exact .inr ⟨⟨hl, hk⟩, h⟩

/-- Settles O52: `construct_some_eq` asks whether the block refused the key and then the IV, which it does exactly when
they are not accepted (`presentKey_reset_cases`, `presentIv_cases`). -/
theorem constructOutcomes : Obligations.ConstructOutcomes := by
  refine ⟨fun _ _ _ _ => rfl, fun key iv pad mode s hkey => ?_, fun key iv pad mode s hkey hiv => ?_,
    fun key iv pad mode s hkey hiv => ?_⟩ <;> rw [construct_some_eq]
  · rcases presentKey_reset_cases Config.params mode key with ⟨-, h⟩ | ⟨haccepted, -⟩
    · rw [if_pos (by rw [h]; decide)]
    · exact absurd haccepted hkey
  · have hb := keyed_presentKey Config.params mode key hkey
    rcases presentIv_cases Config.params iv hkey hb with ⟨-, h⟩ | ⟨haccepted, -⟩
    · rw [if_neg (not_not.2 hb.err), if_pos h]
    · exact absurd haccepted hiv
  · have hb := keyed_presentKey Config.params mode key hkey
    rcases presentIv_cases Config.params iv hkey hb with ⟨hrefused, -⟩ | ⟨-, h⟩
    · exact absurd hiv hrefused
    · rw [if_neg (not_not.2 hb.err), if_neg (by rw [h]; simp), h]
      exact ⟨_, rfl, rfl, rfl, by simp, by simp [hb.mode], by simp [hb.kw], by simp [hb.fault], by simp⟩

end Sys2Proof.Machine
end

section
/-!
The calls of a transform (47_host_stream R158 to R165): drawing keystream (O54), the block transform (O55, O56, O57),
the final block with its padding (O58) and the unpad rule (O59).
-/

namespace Sys2Proof.Machine

/-! ### Drawing keystream -/

theorem nextBytes_zero_eq_next_iff (t t' : Transform) (xs : List Byte) :
    nextBytes 0 t = .next (xs, t') ↔ xs = [] ∧ t' = t := by
  simp only [nextBytes, Host.Outcome.next.injEq, Prod.mk.injEq, eq_comm]

theorem nextBytes_succ_eq_next_iff (n : Nat) (t t' : Transform) (xs : List Byte) :
    nextBytes (n + 1) t = .next (xs, t') ↔
      ∃ x t1 ys, nextByte t = .next (x, t1) ∧ nextBytes n t1 = .next (ys, t') ∧ xs = x :: ys := by
  simp only [nextBytes, andThen_eq_next_iff, Prod.exists, Host.Outcome.next.injEq, Prod.mk.injEq]
  constructor
  · rintro ⟨x, t1, hbyte, ys, u, hrest, rfl, rfl⟩
    exact ⟨x, t1, ys, hbyte, hrest, rfl⟩
  · rintro ⟨x, t1, ys, hbyte, hrest, rfl⟩
    exact ⟨x, t1, hbyte, ys, t', hrest, rfl, rfl⟩

theorem length_of_nextBytes {n : Nat} {t t' : Transform} {xs : List Byte} (h : nextBytes n t = .next (xs, t')) :
    xs.length = n := by
  induction n generalizing t xs with
  | zero =>
    obtain ⟨rfl, -⟩ := (nextBytes_zero_eq_next_iff t t' xs).1 h
    rfl
  | succ n ih =>
    obtain ⟨x, t1, ys, -, hrest, rfl⟩ := (nextBytes_succ_eq_next_iff n t t' xs).1 h
    rw [List.length_cons, ih hrest]

/-- A request for `a + b` bytes is a request for `a` and then one for `b`. -/
theorem nextBytes_add_eq_next_iff (a b : Nat) (t t' : Transform) (xs : List Byte) :
    nextBytes (a + b) t = .next (xs, t') ↔
      ∃ ys t1 zs, nextBytes a t = .next (ys, t1) ∧ nextBytes b t1 = .next (zs, t') ∧ xs = ys ++ zs := by
  induction a generalizing t xs with
  | zero => simp [nextBytes_zero_eq_next_iff]
  | succ a ih =>
    rw [Nat.succ_add]
    simp only [Nat.succ_eq_add_one, nextBytes_succ_eq_next_iff, ih]
    constructor
    · rintro ⟨x, t0, _, hbyte, ⟨ys, t1, zs, hys, hzs, rfl⟩, rfl⟩
      exact ⟨x :: ys, t1, zs, ⟨x, t0, ys, hbyte, hys, rfl⟩, hzs, rfl⟩
    · rintro ⟨_, t1, zs, ⟨x, t0, ys, hbyte, hys, rfl⟩, hzs, rfl⟩
      exact ⟨x, t0, ys ++ zs, hbyte, ⟨ys, t1, zs, hys, hzs, rfl⟩, rfl⟩

/-- Settles O54: the two parts of the split request (`nextBytes_add_eq_next_iff`), told apart by their lengths. -/
theorem nextBytesChunkIndependent : Obligations.NextBytesChunkIndependent := by
  intro a b t t' xs h
  obtain ⟨ys, t1, zs, hys, hzs, rfl⟩ := (nextBytes_add_eq_next_iff a b t t' xs).1 h
  have hlen := length_of_nextBytes hys
  exact ⟨t1, by rw [List.take_left' hlen, hys], by rw [List.drop_left' hlen, hzs], length_of_nextBytes h⟩

/-! ### Byte strings -/

theorem xorBytes_length (xs ys : List Byte) : (xorBytes xs ys).length = min xs.length ys.length :=
  List.length_zipWith

theorem xorBytes_getElem? {xs ys : List Byte} {i : Nat} (hxs : i < xs.length) (hys : i < ys.length) :
    (xorBytes xs ys)[i]? = some (xs.getD i 0 ^^^ ys.getD i 0) := by
  simp [xorBytes, hxs, hys]

theorem xorBytes_append {xs ks : List Byte} (h : xs.length = ks.length) (ys ls : List Byte) :
    xorBytes (xs ++ ys) (ks ++ ls) = xorBytes xs ks ++ xorBytes ys ls :=
  List.zipWith_append h

/-- XOR with the same bytes again gives the bytes back. -/
theorem xorBytes_xorBytes {xs ks : List Byte} (h : xs.length ≤ ks.length) : xorBytes (xorBytes xs ks) ks = xs := by
  apply List.ext_getElem
  · simp [xorBytes_length, h]
  · intro i _ _
    simp [xorBytes]

theorem sliceBytes_length {bs : List Byte} {offset count : Nat} (h : offset + count ≤ bs.length) :
    (sliceBytes bs offset count).length = count := by
  simp only [sliceBytes, List.length_take, List.length_drop]
  omega

theorem sliceBytes_getD (bs : List Byte) (offset : Nat) {count i : Nat} (h : i < count) :
    (sliceBytes bs offset count).getD i 0 = bs.getD (offset + i) 0 := by
  simp [sliceBytes, h]

theorem sliceBytes_zero_length (bs : List Byte) : sliceBytes bs 0 bs.length = bs := by
  simp [sliceBytes]

theorem overwriteBytes_length {out bs : List Byte} {offset : Nat} (h : offset + bs.length ≤ out.length) :
    (overwriteBytes out offset bs).length = out.length := by
  simp only [overwriteBytes, List.length_append, List.length_take, List.length_drop]
  omega

theorem overwriteBytes_getElem?_add {out bs : List Byte} {offset i : Nat} (h : offset + bs.length ≤ out.length)
    (hi : i < bs.length) : (overwriteBytes out offset bs)[offset + i]? = bs[i]? := by
  have hfront : (out.take offset).length = offset := List.length_take_of_le (by omega)
  rw [overwriteBytes, List.append_assoc, List.getElem?_append_right (by omega), hfront, Nat.add_sub_cancel_left,
    List.getElem?_append_left hi]

theorem overwriteBytes_getElem?_of_outside {out bs : List Byte} {offset i : Nat}
    (h : offset + bs.length ≤ out.length) (hi : i < offset ∨ offset + bs.length ≤ i) :
    (overwriteBytes out offset bs)[i]? = out[i]? := by
  have hfront : (out.take offset).length = offset := List.length_take_of_le (by omega)
  rcases hi with hlo | hhi
  · rw [overwriteBytes, List.append_assoc, List.getElem?_append_left (by omega), List.getElem?_take_of_lt hlo]
  · have hindex : offset + bs.length + (i - (offset + bs.length)) = i := by omega
    rw [overwriteBytes, List.getElem?_append_right (by rw [List.length_append]; omega), List.length_append, hfront,
      List.getElem?_drop, hindex]

theorem overwriteBytes_zero_of_length_eq {out bs : List Byte} (h : bs.length = out.length) :
    overwriteBytes out 0 bs = bs := by
  simp [overwriteBytes, h]

/-! ### The block transform -/

/-- The checks of R159. -/
theorem transformInRange_iff (inputLen outputLen : Nat) (inOff inCount outOff : Int) :
    transformInRange inputLen outputLen inOff inCount outOff = true ↔
      0 ≤ inOff ∧ 0 ≤ inCount ∧ 0 ≤ outOff ∧ inOff + inCount ≤ inputLen ∧ outOff + inCount ≤ outputLen ∧
        inCount % 20 = 0 := by
  simp [transformInRange, and_assoc]

/-- A call inside the ranges: as many keystream bytes are drawn as are to be written. -/
theorem transform_of_inRange {input output : List Byte} {inOff n outOff : Nat} {t t' : Transform} {ks : List Byte}
    (hin : inOff + n ≤ input.length) (hout : outOff + n ≤ output.length) (hn : n % 20 = 0)
    (hks : nextBytes n t = .next (ks, t')) :
    transform input inOff n output outOff t = .next (.ok {
      written := n
      output := overwriteBytes output outOff (xorBytes (sliceBytes input inOff n) ks)
      transform := t' }) := by
  have hrange : transformInRange input.length output.length inOff n outOff = true :=
    (transformInRange_iff _ _ _ _ _).2 (by omega)
  simp only [transform, if_pos hrange, Int.toNat_natCast, hks, andThen_next]

/-- Settles O55: `transform_of_inRange`, and what `overwriteBytes` writes and leaves alone. -/
theorem transformWritesExactly : Obligations.TransformWritesExactly := by
  refine ⟨fun input output inOff inCount outOff t h => ?_,
    fun input output inOff n outOff t t' ks hin hout hn hks => ?_⟩
  · have hrange : ¬ transformInRange input.length output.length inOff inCount outOff = true := by
      rw [transformInRange_iff]
      omega
    rw [transform, if_neg hrange]
  · have hslice := sliceBytes_length hin
    have hlen : (xorBytes (sliceBytes input inOff n) ks).length = n := by
      rw [xorBytes_length, hslice, length_of_nextBytes hks, Nat.min_self]
    have hfits : outOff + (xorBytes (sliceBytes input inOff n) ks).length ≤ output.length := by rwa [hlen]
    refine ⟨_, transform_of_inRange hin hout hn hks, rfl, rfl, overwriteBytes_length hfits, fun i hi => ?_,
      fun i hi => overwriteBytes_getElem?_of_outside hfits (by rwa [hlen])⟩
    rw [overwriteBytes_getElem?_add hfits (by rwa [hlen]),
      xorBytes_getElem? (by rwa [hslice]) (by rwa [length_of_nextBytes hks]), sliceBytes_getD input inOff hi]

/-- A call that transforms a whole buffer into one of its length. -/
theorem transform_whole_eq_ok_iff {xs out : List Byte} (hout : out.length = xs.length) (t : Transform)
    (r : TransformResult) :
    transform xs 0 xs.length out 0 t = .next (.ok r) ↔
      xs.length % 20 = 0 ∧ ∃ ks t', nextBytes xs.length t = .next (ks, t') ∧
        r = { written := xs.length, output := xorBytes xs ks, transform := t' } := by
  have hrange : transformInRange xs.length out.length 0 xs.length 0 = true ↔ xs.length % 20 = 0 := by
    rw [transformInRange_iff]
    omega
  unfold transform
  split
  case isTrue h =>
    simp only [andThen_eq_next_iff, Prod.exists, Host.Outcome.next.injEq, Except.ok.injEq, Int.toNat_natCast,
      Int.toNat_zero, sliceBytes_zero_length, hrange.1 h, true_and]
    refine exists₂_congr fun ks t' => and_congr_right fun hks => ?_
    have hlen : (xorBytes xs ks).length = out.length := by
      rw [xorBytes_length, length_of_nextBytes hks, Nat.min_self, hout]
    rw [overwriteBytes_zero_of_length_eq hlen, eq_comm]
  case isFalse h =>
    simp [mt hrange.2 h]

/-- Settles O56: both calls draw the same keystream, and XOR with it twice gives the input back. -/
theorem transformTwiceReturnsInput : Obligations.TransformTwiceReturnsInput := by
  intro xs out out' t r r' hout hout' hr hr'
  obtain ⟨-, ks, t', hks, rfl⟩ := (transform_whole_eq_ok_iff hout t r).1 hr
  have hks_len := length_of_nextBytes hks
  have hlen : (xorBytes xs ks).length = xs.length := by rw [xorBytes_length, hks_len, Nat.min_self]
  simp only [← hlen] at hr' hout'
  obtain ⟨-, ks', u', hks', rfl⟩ := (transform_whole_eq_ok_iff hout' t r').1 hr'
  rw [hlen, hks] at hks'
  cases hks'
  exact ⟨xorBytes_xorBytes hks_len.ge, rfl⟩

/-- Settles O57: the whole request draws the keystream of the two in order (`nextBytes_add_eq_next_iff`). -/
theorem transformChunkIndependent : Obligations.TransformChunkIndependent := by
  intro xs ys t r1 r2 r h1 h2 h
  obtain ⟨-, ks1, t1, hks1, rfl⟩ := (transform_whole_eq_ok_iff rfl t r1).1 h1
  obtain ⟨-, ks2, t2, hks2, rfl⟩ := (transform_whole_eq_ok_iff rfl t1 r2).1 h2
  obtain ⟨-, ks, t', hks, rfl⟩ := (transform_whole_eq_ok_iff rfl t r).1 h
  have hwhole := (nextBytes_add_eq_next_iff xs.length ys.length t t2 (ks1 ++ ks2)).2 ⟨ks1, t1, ks2, hks1, hks2, rfl⟩
  rw [← List.length_append, hks] at hwhole
  cases hwhole
  exact ⟨xorBytes_append (length_of_nextBytes hks1).symm ys ks2, rfl⟩

/-! ### The final block -/

/-- The value of every padding byte: their number under `Pkcs7`, 0 under the other schemes (R163 to R165). -/
theorem paddingBytes_eq_replicate (pad : Padding) (p : Nat) :
    paddingBytes pad p = List.replicate p (if pad = .pkcs7 then BitVec.ofNat 8 p else 0) := by
  cases pad <;> rfl

theorem finalBlock_length {pad : Padding} {bytes : List Byte} (h : bytes.length ≤ 20) :
    (finalBlock pad bytes).length = 20 := by
  rw [finalBlock, paddingBytes_eq_replicate, List.length_append, List.length_replicate]
  omega

theorem finalBlock_getD_of_lt (pad : Padding) {bytes : List Byte} {i : Nat} (h : i < bytes.length) :
    (finalBlock pad bytes).getD i 0 = bytes.getD i 0 :=
  List.getD_append _ _ _ _ h

theorem finalBlock_getD_of_le (pad : Padding) {bytes : List Byte} {i : Nat} (h : bytes.length ≤ i) (hi : i < 20) :
    (finalBlock pad bytes).getD i 0 = if pad = .pkcs7 then BitVec.ofNat 8 (20 - bytes.length) else 0 := by
  rw [finalBlock, paddingBytes_eq_replicate, List.getD_append_right _ _ _ _ h, List.getD_replicate]
  omega

/-- The checks of R162. -/
theorem finalInRange_iff (inputLen : Nat) (off n : Int) :
    finalInRange inputLen off n = true ↔ 0 ≤ off ∧ 0 ≤ n ∧ n ≤ 20 ∧ off + n ≤ inputLen := by
  simp [finalInRange, and_assoc]

/-- Settles O58: the checks, and the final block byte by byte. -/
theorem transformFinalPadsAndEncrypts : Obligations.TransformFinalPadsAndEncrypts := by
  refine ⟨fun input off n t h => ?_, fun input off n t t' ks hn hin hks => ?_⟩
  · have hrange : ¬ finalInRange input.length off n = true := by
      rw [finalInRange_iff]
      omega
    rw [transformFinal, if_neg hrange]
  · have hrange : finalInRange input.length off n = true := (finalInRange_iff _ _ _).2 (by omega)
    have hslice := sliceBytes_length hin
    have hblock : (finalBlock t.pad (sliceBytes input off n)).length = 20 := finalBlock_length (by rwa [hslice])
    have hks_len := length_of_nextBytes hks
    refine ⟨xorBytes (finalBlock t.pad (sliceBytes input off n)) ks, ?_, ?_, fun i hi => ?_, fun i hlo hhi => ?_⟩
    · simp only [transformFinal, if_pos hrange, Int.toNat_natCast, hks, andThen_next]
    · rw [xorBytes_length, hblock, hks_len, Nat.min_self]
    · rw [xorBytes_getElem? (by omega) (by omega), finalBlock_getD_of_lt t.pad (by rwa [hslice]),
        sliceBytes_getD input off hi]
    · rw [xorBytes_getElem? (by omega) (by omega), finalBlock_getD_of_le t.pad (by rwa [hslice]) hhi, hslice]

/-! ### The unpad rule -/

/-- The unpad rule reads its own padding of `p` bytes, `1 <= p <= 20`, and drops it (R164). -/
theorem pkcs7Unpad_append_replicate (bytes : List Byte) {p : Nat} (hpos : 1 ≤ p) (hle : p ≤ 20) :
    pkcs7Unpad (bytes ++ List.replicate p (BitVec.ofNat 8 p)) = some bytes := by
  have hvalue : (BitVec.ofNat 8 p).toNat = p := by rw [BitVec.toNat_ofNat]; omega
  have hlast : (bytes ++ List.replicate p (BitVec.ofNat 8 p)).getLast? = some (BitVec.ofNat 8 p) := by
    rw [List.getLast?_append, List.getLast?_replicate, if_neg (by omega), Option.some_or]
  have hlen : (bytes ++ List.replicate p (BitVec.ofNat 8 p)).length = bytes.length + p := by simp
  have hfront : (bytes ++ List.replicate p (BitVec.ofNat 8 p)).take (bytes.length + p - p) = bytes := by simp
  have hfits : p ≤ bytes.length + p := by omega
  simp only [pkcs7Unpad, hlast, hvalue, hlen, hfront, hpos, hle, hfits, and_self, if_true]

/-- Settles O59: fewer than 20 bytes leave at least one byte of padding to unpad (`pkcs7Unpad_append_replicate`). -/
theorem pkcs7PadUnpadRoundTrip : Obligations.Pkcs7PadUnpadRoundTrip := fun bytes h =>
  pkcs7Unpad_append_replicate bytes (by omega) (by omega)

end Sys2Proof.Machine
end
